-- ==== Sys2Proof/Word.lean ====
section
/-! DEFINITION. The byte, the pipe number and the small vocabularies every file shares. -/

namespace Sys2Proof

/-- One byte on the bus, in a register or in a payload (rule R16). -/
abbrev Byte := BitVec 8

/-- A logical receive channel, 0 to 5 (rules R8 and R19). -/
abbrev Pipe := Fin 6

/-- The two register banks (rule R24). -/
inductive Bank where
  | bank0
  | bank1
deriving DecidableEq, Repr

/-- The refusal codes of rule R271. -/
inductive RefusalCode where
  /-- RF01: CSN rose in the middle of a byte (rule R137). -/
  | rf01PartialByte
  /-- RF02: reserved command byte (rule R108). -/
  | rf02ReservedCommand
  /-- RF03: write to an unmapped register address (rule R219). -/
  | rf03UnmappedWrite
  /-- RF04: write of more data bytes than the register's width (rule R213). -/
  | rf04TooManyBytes
  /-- RF05: ACTIVATE argument other than 0x53 or 0x73 (rule R190). -/
  | rf05ActivateArgument
  /-- RF06: ACTIVATE without exactly one argument byte (rule R190). -/
  | rf06ActivateCount
  /-- RF07: ACTIVATE 0x73 while the feature register is unlocked (rule R193). -/
  | rf07AlreadyUnlocked
  /-- RF08: lock-gated access while the feature register is locked (rules R222, R255). -/
  | rf08FeatureLocked
  /-- RF09: payload write into a full TX FIFO (rule R241). -/
  | rf09TxFifoFull
  /-- RF10: payload write of 0 or more than 32 bytes (rule R241). -/
  | rf10PayloadLength
  /-- RF11: payload or flush command while bank 1 is selected (rule R254). -/
  | rf11WrongBank
  /-- RF12: CONFIG write changing PWR_UP or PRIM_RX while CE is high (rule R217). -/
  | rf12ModeChangeCeHigh
deriving DecidableEq, Repr

end Sys2Proof
end

