-- ==== Sys2Proof/Syntax.lean ====
section
/-! DEFINITION. The instructions: one SPI transaction each, the command byte's fields and the data bytes (rules R100 to R107). -/

namespace Sys2Proof

/-- One command with its operands; `data` holds the data bytes in wire order (rule R107). The two
ACTIVATE commands carry no free data: their one argument byte selects them (rule R104). The table's
two rows W_TX_PAYLOAD_ACK are one constructor, since they only split the pipe's range. -/
inductive Instr where
  | rRegister (addr : BitVec 5) (data : List Byte)
  | wRegister (addr : BitVec 5) (data : List Byte)
  | activateBank
  | activateFeature
  | rRxPlWid (data : List Byte)
  | rRxPayload (data : List Byte)
  | wTxPayload (data : List Byte)
  | wTxPayloadAck (pipe : BitVec 3) (data : List Byte)
  | flushTx (data : List Byte)
  | flushRx (data : List Byte)
deriving DecidableEq, Repr

/-- What the command byte alone selects (rule R106). -/
inductive Command where
  | rRegister (addr : BitVec 5)
  | wRegister (addr : BitVec 5)
  | activate
  | rRxPlWid
  | rRxPayload
  | wTxPayload
  | wTxPayloadAck (pipe : BitVec 3)
  | flushTx
  | flushRx
  | reserved (c : Byte)
deriving DecidableEq, Repr

end Sys2Proof
end

