-- ==== Sys2Proof/WellFormed.lean ====
section
/-! DEFINITION. Which instructions have an encoding of their own. -/

namespace Sys2Proof

/-- The pipe operand of W_TX_PAYLOAD_ACK is 0 to 5 (rule R107): pipe fields 6 and 7 encode no pipe
(rule R103). Every other operand is legal at every value, and every data count can be sent. -/
def Instr.wf : Instr → Bool
  | .rRegister _ _ => true
  | .wRegister _ _ => true
  | .activateBank => true
  | .activateFeature => true
  | .rRxPlWid _ => true
  | .rRxPayload _ => true
  | .wTxPayload _ => true
  | .wTxPayloadAck pipe _ => decide (pipe ≤ 5#3)
  | .flushTx _ => true
  | .flushRx _ => true

end Sys2Proof
end

