-- ==== Sys2Proof/Decode.lean ====
section
/-! DEFINITION. Decoding a transaction's bytes, encoding an instruction, and the opcode table's numbering of words. -/

namespace Sys2Proof

/-- Decoding of the command byte, total on every byte (rule R106). -/
def decodeByte (c : Byte) : Command :=
  if c.extractLsb' 5 3 = 0b000#3 then .rRegister (c.extractLsb' 0 5)
  else if c.extractLsb' 5 3 = 0b001#3 then .wRegister (c.extractLsb' 0 5)
  else if c = 0x50#8 then .activate
  else if c = 0x60#8 then .rRxPlWid
  else if c = 0x61#8 then .rRxPayload
  else if c = 0xA0#8 then .wTxPayload
  else if c.extractLsb' 3 5 = 0b10101#5 ∧ c.extractLsb' 0 3 ≤ 5#3 then .wTxPayloadAck (c.extractLsb' 0 3)
  else if c = 0xE1#8 then .flushTx
  else if c = 0xE2#8 then .flushRx
  else .reserved c

/-- Which ACTIVATE variant the data bytes select: exactly one argument byte, 0x53 or 0x73, the count
checked first (rules R104, R190 and R276). -/
def decodeActivate : List Byte → Except RefusalCode Instr
  | [arg] =>
    if arg = 0x53#8 then .ok .activateBank
    else if arg = 0x73#8 then .ok .activateFeature
    else .error .rf05ActivateArgument
  | _ => .error .rf06ActivateCount

/-- The instruction of a transaction with command byte `c` and data bytes `data` (rules R100, R106), or
the code by which it is rejected (rules R108, R190). -/
def decodeFrame (c : Byte) (data : List Byte) : Except RefusalCode Instr :=
  match decodeByte c with
  | .rRegister a => .ok (.rRegister a data)
  | .wRegister a => .ok (.wRegister a data)
  | .activate => decodeActivate data
  | .rRxPlWid => .ok (.rRxPlWid data)
  | .rRxPayload => .ok (.rRxPayload data)
  | .wTxPayload => .ok (.wTxPayload data)
  | .wTxPayloadAck p => .ok (.wTxPayloadAck p data)
  | .flushTx => .ok (.flushTx data)
  | .flushRx => .ok (.flushRx data)
  | .reserved _ => .error .rf02ReservedCommand

/-- The command byte of an instruction (rules R101 to R104). -/
def Instr.commandByte : Instr → Byte
  | .rRegister a _ => 0b000#3 ++ a
  | .wRegister a _ => 0b001#3 ++ a
  | .activateBank => 0x50#8
  | .activateFeature => 0x50#8
  | .rRxPlWid _ => 0x60#8
  | .rRxPayload _ => 0x61#8
  | .wTxPayload _ => 0xA0#8
  | .wTxPayloadAck p _ => 0b10101#5 ++ p
  | .flushTx _ => 0xE1#8
  | .flushRx _ => 0xE2#8

/-- The data bytes of an instruction; the argument of ACTIVATE is its one data byte (rule R104). -/
def Instr.dataBytes : Instr → List Byte
  | .rRegister _ data => data
  | .wRegister _ data => data
  | .activateBank => [0x53#8]
  | .activateFeature => [0x73#8]
  | .rRxPlWid data => data
  | .rRxPayload data => data
  | .wTxPayload data => data
  | .wTxPayloadAck _ data => data
  | .flushTx data => data
  | .flushRx data => data

/-- The bytes of the transaction that carries an instruction, in wire order (rule R100). -/
def encode (i : Instr) : List Byte := i.commandByte :: i.dataBytes

/-- The command that an instruction's command byte selects. -/
def Instr.command : Instr → Command
  | .rRegister a _ => .rRegister a
  | .wRegister a _ => .wRegister a
  | .activateBank => .activate
  | .activateFeature => .activate
  | .rRxPlWid _ => .rRxPlWid
  | .rRxPayload _ => .rRxPayload
  | .wTxPayload _ => .wTxPayload
  | .wTxPayloadAck p _ => .wTxPayloadAck p
  | .flushTx _ => .flushTx
  | .flushRx _ => .flushRx

/-- The `n` bytes of the number `w`, most significant first. -/
def bytesOfWord : Nat → Nat → List Byte
  | 0, _ => []
  | n + 1, w => bytesOfWord n (w / 256) ++ [BitVec.ofNat 8 w]

/-- The wire bytes of a word of the opcode table. The table numbers a format ACT word with its first
wire byte in bits 15:8, so a word of several bytes is sent most significant byte first. A one-byte
word is followed by one data byte of zero. -/
def tableBytes (nbits w : Nat) : List Byte :=
  bytesOfWord (nbits / 8) w ++ (if nbits ≤ 8 then [0x00#8] else [])

/-- The instruction the decoder reads from a word of the opcode table. -/
def decodeTableWord (nbits w : Nat) : Option Instr :=
  match tableBytes nbits w with
  | [] => none
  | c :: data => (decodeFrame c data).toOption

end Sys2Proof
end

