-- ==== Sys2Proof/Config.lean ====
section
/-! DEFINITION. The parameters an implementation fixes (rules R8 to R13), the register names, and the free values for what
the spec leaves open (rule R272). -/

namespace Sys2Proof

/-- The bank-0 registers of rule R30, by name. -/
inductive Reg0 where
  | status | feature
  | config | enAa | enRxaddr | setupAw | setupRetr | rfCh | rfSetup
  | u08 | u09
  | rxAddrP0 | rxAddrP1 | rxAddrP2 | rxAddrP3 | rxAddrP4 | rxAddrP5
  | txAddr
  | rxPwP0 | rxPwP1 | rxPwP2 | rxPwP3 | rxPwP4 | rxPwP5
  | auxStatus | dynpd
deriving DecidableEq, Repr

/-- The bank-1 registers of rule R54, named by their address. -/
inductive Reg1 where
  | r00 | r01 | r02 | r03 | r04 | r05 | r06 | r07 | r08 | r09 | r0A | r0B | r0C | r0D | r0E
deriving DecidableEq, Repr

/-- The record LAYOUT of rule R9: the bank-0 addresses the source does not give, and the positions of
the fields of rules R31 to R50. STATUS and FEATURE have no field: their addresses are fixed. A field of
several bits is given by the position of its lowest bit. -/
structure Layout where
  aConfig : BitVec 5
  aEnAa : BitVec 5
  aEnRxaddr : BitVec 5
  aSetupAw : BitVec 5
  aSetupRetr : BitVec 5
  aRfCh : BitVec 5
  aRfSetup : BitVec 5
  aU08 : BitVec 5
  aU09 : BitVec 5
  aRxAddrP0 : BitVec 5
  aRxAddrP1 : BitVec 5
  aRxAddrP2 : BitVec 5
  aRxAddrP3 : BitVec 5
  aRxAddrP4 : BitVec 5
  aRxAddrP5 : BitVec 5
  aTxAddr : BitVec 5
  aRxPwP0 : BitVec 5
  aRxPwP1 : BitVec 5
  aRxPwP2 : BitVec 5
  aRxPwP3 : BitVec 5
  aRxPwP4 : BitVec 5
  aRxPwP5 : BitVec 5
  aAuxStatus : BitVec 5
  aDynpd : BitVec 5
  posPwrUp : Fin 8
  posPrimRx : Fin 8
  posEnCrc : Fin 8
  posCrco : Fin 8
  posRxPNo : Fin 8
  posTxFull : Fin 8
  posArc : Fin 8
  posArd : Fin 8
  posRfPwr : Fin 8
  posLna : Fin 8
  posDrLow : Fin 8
  posDrHigh : Fin 8
  posEnDpl : Fin 8
deriving DecidableEq, Repr

/-- IRQBIT of rule R44: the bit of `irq` each radio event sets; bit k of `irq` is STATUS bit 4 + k. -/
structure IrqBits where
  rxDr : Fin 3
  txDs : Fin 3
  maxRt : Fin 3
deriving DecidableEq, Repr

/-- P_RXPOP of rules R246 and R247. -/
inductive RxPop where
  | perByte
  | wholePayloadAtEnd
deriving DecidableEq, Repr

/-- The parameters that a step reads (rules R9, R10, R12, R13). A register absent from `readMask` has
RESERVED_READ_MASK 0x00, the spec's default (rule R51). -/
structure Params where
  layout : Layout
  txDepth : Nat
  rxDepth : Nat
  lockedAtPor : Bool
  rxPop : RxPop
  irqBits : IrqBits
  readMask : List (Reg0 × Byte)
deriving DecidableEq, Repr

/-- The six transmit power levels of rule R38. -/
inductive TxLevel where
  | plus4 | minus1 | minus7 | minus12 | minus18 | minus25
deriving DecidableEq, Repr

/-- The three data rates of rule R39. -/
inductive DataRate where
  | rate1M | rate2M | rate250K
deriving DecidableEq, Repr

/-! Free values: opaque constants with no body, so that no proof can rest on one. The first argument
is the number of the transaction or event (`Block.draws`), so that each draw is a fresh one. -/

/-- The drawn byte at output byte `i` of transaction `n` of a ready block (rules R40, R51, R135, R211). -/
opaque Config.freeMisoByte (n i : Nat) : Byte

/-- The byte a block that is not ready shifts out as byte `i` of transaction `n` (rule R138). -/
opaque Config.freeBootByte (n i : Nat) : Byte

/-- The level that the host's read number `k` since draw number `n` finds on the undriven MISO (rule R134). -/
opaque Config.freeMisoLevel (n k : Nat) : Bool

/-- Byte `j` of a register whose write ended before it (rule R213). -/
opaque Config.freeRegByte (n j : Nat) : Byte

/-- The TX FIFO drawn at power-off or power-on, before it is made well-formed (rules R61, R165). -/
opaque Config.freeTxFifo (n : Nat) : List (List Byte × Option Pipe)

/-- The RX FIFO drawn at power-off or power-on, before it is made well-formed (rules R61, R165). -/
opaque Config.freeRxFifo (n : Nat) : List (Pipe × List Byte)

/-- Whether an AUX_STATUS write empties the TX FIFO (rule R220). -/
opaque Config.freeAuxEmptiesTx (n : Nat) : Bool

/-- Whether an AUX_STATUS write empties the RX FIFO (rule R220). -/
opaque Config.freeAuxEmptiesRx (n : Nat) : Bool

/-- The bank at power-on (rule R61). -/
opaque Config.freePorBank1 (n : Nat) : Bool

/-- Byte `j` of a bank-0 register at power-on (rule R61). -/
opaque Config.freePorReg0 (n : Nat) (r : Reg0) (j : Nat) : Byte

/-- Byte `j` of a bank-1 register at power-on (rule R61). -/
opaque Config.freePorReg1 (n : Nat) (r : Reg1) (j : Nat) : Byte

/-- The interrupt flags at power-on (rule R61). -/
opaque Config.freePorIrq (n : Nat) : BitVec 3

/-- The two shift registers at power-on (rule R23 gives them no value). -/
opaque Config.freePorShift (n j : Nat) : Byte

/-! Parameters that no step reads, and whose values the spec does not give: opaque constants. -/

/-- TXPWR_MAP of rule R38: the RF_PWR field and the analog trim of each level. -/
opaque Config.txPwrMap (l : TxLevel) : BitVec 2 × BitVec 3

/-- The places of the 3-bit trim in bank-1 register 4 (rules R38 and R55), part of TXPWR_MAP: trim bit k, for
k = 0, 1, 2, is the register's bit that k is sent to. A permutation, so the three places are distinct;
every three distinct places are those of some permutation. -/
opaque Config.trimPlace : Equiv.Perm (Fin 32)

/-- DR_MAP of rule R39: the two data-rate bits, DR_LOW then DR_HIGH. -/
opaque Config.drMap (r : DataRate) : Bool × Bool

/-- RETRY_DELAY_MAP of rule R36: microseconds of each ARD code. -/
opaque Config.retryDelayMap (ard : BitVec 4) : Nat

/-- The address width that a SETUP_AW byte other than 1, 2 or 3 gives (rule R37). -/
opaque Config.addrWidthOf (v : Byte) : Nat

/-- B0_DEFAULTS of rule R300: byte `j` of a bank-0 default. -/
opaque Config.b0Default (r : Reg0) (j : Nat) : Byte

/-- The four pipe-trim writes of the bring-up (rule R294): which register of `trimTargets` each reaches, and
its byte. -/
opaque Config.pipeTrim (k : Fin 4) : Fin 18 × Byte

/-- The five payload-size writes of the bring-up (rule R300): which register of `trimTargets` each reaches,
and its byte. -/
opaque Config.sizeTrim (k : Fin 5) : Fin 18 × Byte

/-- B1_DEFAULTS of rule R300: byte `j` of a bank-1 default. -/
opaque Config.b1Default (r : Reg1) (j : Nat) : Byte

/-- B1R4_TOGGLE_BIT of rule R302: the bit, counted through the 4 bytes of bank-1 register 4. -/
opaque Config.b1r4ToggleBit : Fin 32

/-- F_SCK_MAX of rule R11, in hertz: a host obligation only. -/
opaque Config.fSckMax : Nat

/-- T_PWR_SETTLE of rule R11, in microseconds: a host obligation only. -/
opaque Config.tPwrSettle : Nat

end Sys2Proof
end

