-- ==== Sys2Proof/Machine/Params.lean ====
section
/-! DEFINITION. The addresses LAYOUT gives, the constraints on the parameters, and the reference instance (rules R9 to R13). -/

namespace Sys2Proof.Machine

/-- Every bank-0 register, the two with fixed addresses first. -/
def allReg0 : List Reg0 :=
  [.status, .feature,
   .config, .enAa, .enRxaddr, .setupAw, .setupRetr, .rfCh, .rfSetup, .u08, .u09,
   .rxAddrP0, .rxAddrP1, .rxAddrP2, .rxAddrP3, .rxAddrP4, .rxAddrP5, .txAddr,
   .rxPwP0, .rxPwP1, .rxPwP2, .rxPwP3, .rxPwP4, .rxPwP5, .auxStatus, .dynpd]

/-- The address of a bank-0 register (rule R30): STATUS is 0x07 and FEATURE 0x1D in every layout (rule R9). -/
def addr0 (l : Layout) : Reg0 → BitVec 5
  | .status => 0x07#5
  | .feature => 0x1D#5
  | .config => l.aConfig
  | .enAa => l.aEnAa
  | .enRxaddr => l.aEnRxaddr
  | .setupAw => l.aSetupAw
  | .setupRetr => l.aSetupRetr
  | .rfCh => l.aRfCh
  | .rfSetup => l.aRfSetup
  | .u08 => l.aU08
  | .u09 => l.aU09
  | .rxAddrP0 => l.aRxAddrP0
  | .rxAddrP1 => l.aRxAddrP1
  | .rxAddrP2 => l.aRxAddrP2
  | .rxAddrP3 => l.aRxAddrP3
  | .rxAddrP4 => l.aRxAddrP4
  | .rxAddrP5 => l.aRxAddrP5
  | .txAddr => l.aTxAddr
  | .rxPwP0 => l.aRxPwP0
  | .rxPwP1 => l.aRxPwP1
  | .rxPwP2 => l.aRxPwP2
  | .rxPwP3 => l.aRxPwP3
  | .rxPwP4 => l.aRxPwP4
  | .rxPwP5 => l.aRxPwP5
  | .auxStatus => l.aAuxStatus
  | .dynpd => l.aDynpd

/-- The bank-0 register mapped at an address, none where it is unmapped (rules R30 and R219). -/
def reg0At (l : Layout) (a : BitVec 5) : Option Reg0 := allReg0.find? (fun r => addr0 l r == a)

/-- The bank-1 register at an address, none for 0x0F to 0x1F (rule R54). -/
def reg1At (a : BitVec 5) : Option Reg1 :=
  if a = 0x00#5 then some .r00
  else if a = 0x01#5 then some .r01
  else if a = 0x02#5 then some .r02
  else if a = 0x03#5 then some .r03
  else if a = 0x04#5 then some .r04
  else if a = 0x05#5 then some .r05
  else if a = 0x06#5 then some .r06
  else if a = 0x07#5 then some .r07
  else if a = 0x08#5 then some .r08
  else if a = 0x09#5 then some .r09
  else if a = 0x0A#5 then some .r0A
  else if a = 0x0B#5 then some .r0B
  else if a = 0x0C#5 then some .r0C
  else if a = 0x0D#5 then some .r0D
  else if a = 0x0E#5 then some .r0E
  else none

/-- RESERVED_READ_MASK of a register (rule R51); it applies to single-byte registers only (rule R211). -/
def readMaskOf (p : Params) (r : Reg0) : Byte :=
  match r with
  | .rxAddrP0 | .rxAddrP1 | .txAddr => 0x00#8
  | _ => (p.readMask.lookup r).getD 0x00#8

/-- The constraints on LAYOUT: distinct addresses (rule R9), and fields that lie inside their byte, do
not overlap, and in STATUS stay clear of bits 7:4. -/
def layoutOk (l : Layout) : Bool :=
  decide (allReg0.map (addr0 l)).Nodup
    && decide ([l.posPwrUp, l.posPrimRx, l.posEnCrc, l.posCrco].Nodup)
    && ((l.posRxPNo == 0 && l.posTxFull == 3) || (l.posRxPNo == 1 && l.posTxFull == 0))
    && ((l.posArc == 0 && l.posArd == 4) || (l.posArc == 4 && l.posArd == 0))
    && decide (l.posRfPwr.val < 7)
    && decide ([l.posRfPwr.val, l.posRfPwr.val + 1, l.posLna.val, l.posDrLow.val, l.posDrHigh.val].Nodup)

/-- The constraints on the parameters: those of LAYOUT, depths of at least 1 (rule R10), and three
distinct flag bits (rule R44). -/
def paramsOk (p : Params) : Bool :=
  layoutOk p.layout && decide (1 ≤ p.txDepth) && decide (1 ≤ p.rxDepth)
    && decide ([p.irqBits.rxDr, p.irqBits.txDs, p.irqBits.maxRt].Nodup)

/-- RFM75_REF, the reference instance of LAYOUT (rule R30 and the entries I1 and I6 of
93_implementation_defined.md): an instance from general knowledge, not a fact of the source. -/
def rfm75Ref : Layout where
  aConfig := 0x00#5
  aEnAa := 0x01#5
  aEnRxaddr := 0x02#5
  aSetupAw := 0x03#5
  aSetupRetr := 0x04#5
  aRfCh := 0x05#5
  aRfSetup := 0x06#5
  aU08 := 0x08#5
  aU09 := 0x09#5
  aRxAddrP0 := 0x0A#5
  aRxAddrP1 := 0x0B#5
  aRxAddrP2 := 0x0C#5
  aRxAddrP3 := 0x0D#5
  aRxAddrP4 := 0x0E#5
  aRxAddrP5 := 0x0F#5
  aTxAddr := 0x10#5
  aRxPwP0 := 0x11#5
  aRxPwP1 := 0x12#5
  aRxPwP2 := 0x13#5
  aRxPwP3 := 0x14#5
  aRxPwP4 := 0x15#5
  aRxPwP5 := 0x16#5
  aAuxStatus := 0x17#5
  aDynpd := 0x1C#5
  posPwrUp := 1
  posPrimRx := 0
  posEnCrc := 3
  posCrco := 2
  posRxPNo := 1
  posTxFull := 0
  posArc := 0
  posArd := 4
  posRfPwr := 1
  posLna := 0
  posDrLow := 5
  posDrHigh := 3
  posEnDpl := 2

/-- The reference instance of the parameters: depth 3 (rule R10), the flag bits of rule R44, PerByte
(rule R246), masks 0x00 (rule R51), and a part whose feature register is locked at power-on. PRESUMED
(log entry 3). -/
def refParams : Params where
  layout := rfm75Ref
  txDepth := 3
  rxDepth := 3
  lockedAtPor := true
  rxPop := .perByte
  irqBits := { rxDr := 2, txDs := 1, maxRt := 0 }
  readMask := []

end Sys2Proof.Machine
end

