-- ==== Sys2Proof/Machine/Storage.lean ====
section
/-! DEFINITION. The storage of the two register banks (rules R30 and R54) and the FIFO entries (rules R57 and R58), with the
operations that read and write a register as a byte array (rules R17 and R83). -/

namespace Sys2Proof.Machine

/-- A 4-byte register; byte 0 is the first byte on the wire (rule R83). -/
structure Bytes4 where
  b0 : Byte
  b1 : Byte
  b2 : Byte
  b3 : Byte
deriving DecidableEq, Repr

/-- A 5-byte register. -/
structure Bytes5 where
  b0 : Byte
  b1 : Byte
  b2 : Byte
  b3 : Byte
  b4 : Byte
deriving DecidableEq, Repr

/-- An 11-byte register. -/
structure Bytes11 where
  b0 : Byte
  b1 : Byte
  b2 : Byte
  b3 : Byte
  b4 : Byte
  b5 : Byte
  b6 : Byte
  b7 : Byte
  b8 : Byte
  b9 : Byte
  b10 : Byte
deriving DecidableEq, Repr

def Bytes4.toList (v : Bytes4) : List Byte := [v.b0, v.b1, v.b2, v.b3]

def Bytes5.toList (v : Bytes5) : List Byte := [v.b0, v.b1, v.b2, v.b3, v.b4]

def Bytes11.toList (v : Bytes11) : List Byte :=
  [v.b0, v.b1, v.b2, v.b3, v.b4, v.b5, v.b6, v.b7, v.b8, v.b9, v.b10]

/-- `v` with bit `pos` set or cleared. -/
def withBit {n : Nat} (v : BitVec n) (pos : Nat) (on : Bool) : BitVec n :=
  if on then v ||| BitVec.twoPow n pos else v &&& ~~~(BitVec.twoPow n pos)

/-- The bits of a 4-byte register, numbered from bit 0 of byte 0. -/
def Bytes4.bits (v : Bytes4) : BitVec 32 := v.b3 ++ v.b2 ++ v.b1 ++ v.b0

/-- The 4-byte register with these bits. -/
def Bytes4.ofBits (w : BitVec 32) : Bytes4 :=
  ⟨w.extractLsb' 0 8, w.extractLsb' 8 8, w.extractLsb' 16 8, w.extractLsb' 24 8⟩

/-- The register whose byte `j` is `f j`. -/
def Bytes4.ofFn (f : Nat → Byte) : Bytes4 := ⟨f 0, f 1, f 2, f 3⟩

/-- The register whose byte `j` is `f j`. -/
def Bytes5.ofFn (f : Nat → Byte) : Bytes5 := ⟨f 0, f 1, f 2, f 3, f 4⟩

/-- The register whose byte `j` is `f j`. -/
def Bytes11.ofFn (f : Nat → Byte) : Bytes11 :=
  ⟨f 0, f 1, f 2, f 3, f 4, f 5, f 6, f 7, f 8, f 9, f 10⟩

/-- Bank-0 storage REG0, one field per register of rule R30. STATUS has no storage (rule R40).
AUX_STATUS has its array, which no rule writes or reads back (rules R52, R220). -/
structure Bank0 where
  config : Byte
  enAa : Byte
  enRxaddr : Byte
  setupAw : Byte
  setupRetr : Byte
  rfCh : Byte
  rfSetup : Byte
  u08 : Byte
  u09 : Byte
  rxAddrP0 : Bytes5
  rxAddrP1 : Bytes5
  rxAddrP2 : Byte
  rxAddrP3 : Byte
  rxAddrP4 : Byte
  rxAddrP5 : Byte
  txAddr : Bytes5
  rxPwP0 : Byte
  rxPwP1 : Byte
  rxPwP2 : Byte
  rxPwP3 : Byte
  rxPwP4 : Byte
  rxPwP5 : Byte
  auxStatus : Byte
  dynpd : Byte
  feature : Byte
deriving DecidableEq, Repr

/-- Bank-1 storage REG1 (rule R54). -/
structure Bank1 where
  r00 : Bytes4
  r01 : Bytes4
  r02 : Bytes4
  r03 : Bytes4
  r04 : Bytes4
  r05 : Bytes4
  r06 : Bytes4
  r07 : Bytes4
  r08 : Bytes4
  r09 : Bytes4
  r0A : Bytes4
  r0B : Bytes4
  r0C : Bytes4
  r0D : Bytes4
  r0E : Bytes11
deriving DecidableEq, Repr

/-- An entry of the TX FIFO (rule R57). -/
structure TxEntry where
  data : List Byte
  ack : Option Pipe
deriving DecidableEq, Repr

/-- An entry of the RX FIFO (rule R58). -/
structure RxEntry where
  pipe : Pipe
  data : List Byte
deriving DecidableEq, Repr

/-- Width in bytes of a bank-0 register (rule R30). -/
def width0 : Reg0 → Nat
  | .rxAddrP0 | .rxAddrP1 | .txAddr => 5
  | .status | .feature | .config | .enAa | .enRxaddr | .setupAw | .setupRetr | .rfCh | .rfSetup
  | .u08 | .u09 | .rxAddrP2 | .rxAddrP3 | .rxAddrP4 | .rxAddrP5
  | .rxPwP0 | .rxPwP1 | .rxPwP2 | .rxPwP3 | .rxPwP4 | .rxPwP5 | .auxStatus | .dynpd => 1

/-- Width in bytes of a bank-1 register (rule R54). -/
def width1 : Reg1 → Nat
  | .r0E => 11
  | .r00 | .r01 | .r02 | .r03 | .r04 | .r05 | .r06 | .r07
  | .r08 | .r09 | .r0A | .r0B | .r0C | .r0D => 4

/-- The byte array of a bank-0 register; STATUS has none (rule R40). -/
def Bank0.bytes (b : Bank0) : Reg0 → List Byte
  | .status => []
  | .feature => [b.feature]
  | .config => [b.config]
  | .enAa => [b.enAa]
  | .enRxaddr => [b.enRxaddr]
  | .setupAw => [b.setupAw]
  | .setupRetr => [b.setupRetr]
  | .rfCh => [b.rfCh]
  | .rfSetup => [b.rfSetup]
  | .u08 => [b.u08]
  | .u09 => [b.u09]
  | .rxAddrP0 => b.rxAddrP0.toList
  | .rxAddrP1 => b.rxAddrP1.toList
  | .rxAddrP2 => [b.rxAddrP2]
  | .rxAddrP3 => [b.rxAddrP3]
  | .rxAddrP4 => [b.rxAddrP4]
  | .rxAddrP5 => [b.rxAddrP5]
  | .txAddr => b.txAddr.toList
  | .rxPwP0 => [b.rxPwP0]
  | .rxPwP1 => [b.rxPwP1]
  | .rxPwP2 => [b.rxPwP2]
  | .rxPwP3 => [b.rxPwP3]
  | .rxPwP4 => [b.rxPwP4]
  | .rxPwP5 => [b.rxPwP5]
  | .auxStatus => [b.auxStatus]
  | .dynpd => [b.dynpd]

/-- The bank with byte `j` of register `r` set to `f j`, for every byte of the register. -/
def Bank0.setBytes (b : Bank0) (r : Reg0) (f : Nat → Byte) : Bank0 :=
  match r with
  | .status => b
  | .feature => { b with feature := f 0 }
  | .config => { b with config := f 0 }
  | .enAa => { b with enAa := f 0 }
  | .enRxaddr => { b with enRxaddr := f 0 }
  | .setupAw => { b with setupAw := f 0 }
  | .setupRetr => { b with setupRetr := f 0 }
  | .rfCh => { b with rfCh := f 0 }
  | .rfSetup => { b with rfSetup := f 0 }
  | .u08 => { b with u08 := f 0 }
  | .u09 => { b with u09 := f 0 }
  | .rxAddrP0 => { b with rxAddrP0 := Bytes5.ofFn f }
  | .rxAddrP1 => { b with rxAddrP1 := Bytes5.ofFn f }
  | .rxAddrP2 => { b with rxAddrP2 := f 0 }
  | .rxAddrP3 => { b with rxAddrP3 := f 0 }
  | .rxAddrP4 => { b with rxAddrP4 := f 0 }
  | .rxAddrP5 => { b with rxAddrP5 := f 0 }
  | .txAddr => { b with txAddr := Bytes5.ofFn f }
  | .rxPwP0 => { b with rxPwP0 := f 0 }
  | .rxPwP1 => { b with rxPwP1 := f 0 }
  | .rxPwP2 => { b with rxPwP2 := f 0 }
  | .rxPwP3 => { b with rxPwP3 := f 0 }
  | .rxPwP4 => { b with rxPwP4 := f 0 }
  | .rxPwP5 => { b with rxPwP5 := f 0 }
  | .auxStatus => { b with auxStatus := f 0 }
  | .dynpd => { b with dynpd := f 0 }

/-- The bank whose every register `r` has byte `j` equal to `f r j`. -/
def Bank0.ofFn (f : Reg0 → Nat → Byte) : Bank0 where
  config := f .config 0
  enAa := f .enAa 0
  enRxaddr := f .enRxaddr 0
  setupAw := f .setupAw 0
  setupRetr := f .setupRetr 0
  rfCh := f .rfCh 0
  rfSetup := f .rfSetup 0
  u08 := f .u08 0
  u09 := f .u09 0
  rxAddrP0 := Bytes5.ofFn (f .rxAddrP0)
  rxAddrP1 := Bytes5.ofFn (f .rxAddrP1)
  rxAddrP2 := f .rxAddrP2 0
  rxAddrP3 := f .rxAddrP3 0
  rxAddrP4 := f .rxAddrP4 0
  rxAddrP5 := f .rxAddrP5 0
  txAddr := Bytes5.ofFn (f .txAddr)
  rxPwP0 := f .rxPwP0 0
  rxPwP1 := f .rxPwP1 0
  rxPwP2 := f .rxPwP2 0
  rxPwP3 := f .rxPwP3 0
  rxPwP4 := f .rxPwP4 0
  rxPwP5 := f .rxPwP5 0
  auxStatus := f .auxStatus 0
  dynpd := f .dynpd 0
  feature := f .feature 0

/-- The byte array of a bank-1 register. -/
def Bank1.bytes (b : Bank1) : Reg1 → List Byte
  | .r00 => b.r00.toList
  | .r01 => b.r01.toList
  | .r02 => b.r02.toList
  | .r03 => b.r03.toList
  | .r04 => b.r04.toList
  | .r05 => b.r05.toList
  | .r06 => b.r06.toList
  | .r07 => b.r07.toList
  | .r08 => b.r08.toList
  | .r09 => b.r09.toList
  | .r0A => b.r0A.toList
  | .r0B => b.r0B.toList
  | .r0C => b.r0C.toList
  | .r0D => b.r0D.toList
  | .r0E => b.r0E.toList

/-- The bank with byte `j` of register `r` set to `f j`, for every byte of the register. -/
def Bank1.setBytes (b : Bank1) (r : Reg1) (f : Nat → Byte) : Bank1 :=
  match r with
  | .r00 => { b with r00 := Bytes4.ofFn f }
  | .r01 => { b with r01 := Bytes4.ofFn f }
  | .r02 => { b with r02 := Bytes4.ofFn f }
  | .r03 => { b with r03 := Bytes4.ofFn f }
  | .r04 => { b with r04 := Bytes4.ofFn f }
  | .r05 => { b with r05 := Bytes4.ofFn f }
  | .r06 => { b with r06 := Bytes4.ofFn f }
  | .r07 => { b with r07 := Bytes4.ofFn f }
  | .r08 => { b with r08 := Bytes4.ofFn f }
  | .r09 => { b with r09 := Bytes4.ofFn f }
  | .r0A => { b with r0A := Bytes4.ofFn f }
  | .r0B => { b with r0B := Bytes4.ofFn f }
  | .r0C => { b with r0C := Bytes4.ofFn f }
  | .r0D => { b with r0D := Bytes4.ofFn f }
  | .r0E => { b with r0E := Bytes11.ofFn f }

/-- The bank whose every register `r` has byte `j` equal to `f r j`. -/
def Bank1.ofFn (f : Reg1 → Nat → Byte) : Bank1 where
  r00 := Bytes4.ofFn (f .r00)
  r01 := Bytes4.ofFn (f .r01)
  r02 := Bytes4.ofFn (f .r02)
  r03 := Bytes4.ofFn (f .r03)
  r04 := Bytes4.ofFn (f .r04)
  r05 := Bytes4.ofFn (f .r05)
  r06 := Bytes4.ofFn (f .r06)
  r07 := Bytes4.ofFn (f .r07)
  r08 := Bytes4.ofFn (f .r08)
  r09 := Bytes4.ofFn (f .r09)
  r0A := Bytes4.ofFn (f .r0A)
  r0B := Bytes4.ofFn (f .r0B)
  r0C := Bytes4.ofFn (f .r0C)
  r0D := Bytes4.ofFn (f .r0D)
  r0E := Bytes11.ofFn (f .r0E)

/-- A payload has 1 to 32 bytes (rules R57 to R59). -/
def payloadOk (data : List Byte) : Bool := decide (1 ≤ data.length) && decide (data.length ≤ 32)

/-- A well-formed TX FIFO of a given depth (rule R57). -/
def txFifoOk (depth : Nat) (f : List TxEntry) : Bool :=
  decide (f.length ≤ depth) && f.all (fun e => payloadOk e.data)

/-- A well-formed RX FIFO of a given depth (rule R58). -/
def rxFifoOk (depth : Nat) (f : List RxEntry) : Bool :=
  decide (f.length ≤ depth) && f.all (fun e => payloadOk e.data)

/-- The well-formed TX FIFO that a raw draw stands for: every well-formed FIFO is the draw of itself. -/
def txFifoOfDraw (depth : Nat) (raw : List (List Byte × Option Pipe)) : List TxEntry :=
  ((raw.filter (fun e => payloadOk e.1)).take depth).map (fun e => ⟨e.1, e.2⟩)

/-- The well-formed RX FIFO that a raw draw stands for: every well-formed FIFO is the draw of itself. -/
def rxFifoOfDraw (depth : Nat) (raw : List (Pipe × List Byte)) : List RxEntry :=
  ((raw.filter (fun e => payloadOk e.2)).take depth).map (fun e => ⟨e.1, e.2⟩)

end Sys2Proof.Machine
end

