-- ==== Sys2Proof/Machine/ResetValues.lean ====
section
/-! DEFINITION. The register values that State.reset names: the spec gives none (rule R61), so these are the model's (log
entries 4 and 5). -/

namespace Sys2Proof.Machine

/-- Bank 0 as the RFM75's family leaves it at power-on. PRESUMED (log entry 4). -/
def resetBank0 : Bank0 where
  config := 0x08#8
  enAa := 0x3F#8
  enRxaddr := 0x03#8
  setupAw := 0x03#8
  setupRetr := 0x03#8
  rfCh := 0x02#8
  rfSetup := 0x3F#8
  u08 := 0x00#8
  u09 := 0x00#8
  rxAddrP0 := ⟨0xE7#8, 0xE7#8, 0xE7#8, 0xE7#8, 0xE7#8⟩
  rxAddrP1 := ⟨0xC2#8, 0xC2#8, 0xC2#8, 0xC2#8, 0xC2#8⟩
  rxAddrP2 := 0xC3#8
  rxAddrP3 := 0xC4#8
  rxAddrP4 := 0xC5#8
  rxAddrP5 := 0xC6#8
  txAddr := ⟨0xE7#8, 0xE7#8, 0xE7#8, 0xE7#8, 0xE7#8⟩
  rxPwP0 := 0x00#8
  rxPwP1 := 0x00#8
  rxPwP2 := 0x00#8
  rxPwP3 := 0x00#8
  rxPwP4 := 0x00#8
  rxPwP5 := 0x00#8
  auxStatus := 0x11#8
  dynpd := 0x00#8
  feature := 0x00#8

/-- Bank 1 with every byte zero. DESIGN CHOICE (log entry 5). -/
def resetBank1 : Bank1 := Bank1.ofFn (fun _ _ => 0x00#8)

/-- The bank selected by State.reset. PRESUMED (log entry 4). -/
def resetBank : Bank := .bank0

/-- The flags of State.reset. PRESUMED (log entry 4). -/
def resetIrq : BitVec 3 := 0b000#3

/-- The CE level of State.reset, an input (rule R61). DESIGN CHOICE (log entry 5). -/
def resetCe : Bool := false

/-- The CSN level of State.reset, an input that the host must hold high (rules R28, R61). DESIGN CHOICE
(log entry 5). -/
def resetCsn : Bool := true

end Sys2Proof.Machine
end

