-- ==== Sys2Proof/Machine/State.lean ====
section
/-! DEFINITION. The state of the block (rule R20) with its bus pins, the agents' coming inputs, and the state after reset. -/

namespace Sys2Proof.Machine

/-- What a refusal records: its code and the transaction's bytes (rule R271). -/
structure RefusalRecord where
  code : RefusalCode
  bytes : List Byte
deriving DecidableEq, Repr

/-- The record S of rule R20 without `txn`, which holds a copy of it. `cfg` carries the parameters,
which no step writes (log entry 2). `draws` is the model's own: it numbers the draws (log entry 7). -/
structure Block where
  cfg : Params
  ready : Bool
  bank : Bank
  featureLocked : Bool
  reg0 : Bank0
  reg1 : Bank1
  irq : BitVec 3
  txf : List TxEntry
  rxf : List RxEntry
  ce : Bool
  csn : Bool
  refused : Bool
  refusals : List RefusalRecord
  draws : Nat
deriving DecidableEq, Repr

/-- An open transaction (rule R21): the copy of S taken at the CSN falling edge, the whole bytes received
so far, and the number of bits of the current byte received so far. -/
structure Txn where
  snap : Block
  bytes : List Byte
  bit : Nat
deriving DecidableEq, Repr

/-- One input of an agent: a level the host puts on a pin (rules R131 to R134, R160), a host delay
(rule R112), a RadioCore step (rules R171 to R173), the Boot agent's step (rule R291), or power-on
(rule R61). -/
inductive Event where
  | ce (level : Bool)
  | csn (level : Bool)
  | sck (level : Bool)
  | mosi (level : Bool)
  | wait (us : Nat)
  | rxDeliver (pipe : Pipe) (data : List Byte)
  | txSent
  | txMaxRt
  | bootDone
  | powerOn
deriving DecidableEq, Repr

/-- The state of the machine: the block, its open transaction (rule R21), the bit level of the bus
(rules R23, R130 to R134), and two fields of the model's own: `response`, the whole bytes shifted out
in the transaction closed last (log entry 12), and `agenda`, the coming inputs (log entry 1). `miso`
is none while the pin is not driven (rule R134). -/
structure State where
  blk : Block
  txn : Option Txn
  sck : Bool
  mosi : Bool
  miso : Option Bool
  insr : Byte
  outsr : Byte
  response : List Byte
  agenda : List Event
deriving DecidableEq, Repr

/-- The reasons a step can stop the machine: none. The block has no trap (rules R15 and R270), and what
the spec does not settle is a refusal the block records and goes on from (log entry 6). -/
inductive Fault : Type
deriving DecidableEq, Repr

/-- The reasons an instruction can be without a meaning. -/
inductive Refusal where
  /-- An arm of `exec` that has no meaning yet. No arm raises it. Safe: the machine stops. -/
  | notModelled (mnemonic : String)
deriving DecidableEq, Repr

/-- The block after power-on: what rule R61 states (ready, featureLocked, refused), and the values that
log entries 3 to 5 and 7 name where it leaves a draw. -/
def Block.reset : Block where
  cfg := refParams
  ready := false
  bank := resetBank
  featureLocked := refParams.lockedAtPor
  reg0 := resetBank0
  reg1 := resetBank1
  irq := resetIrq
  txf := []
  rxf := []
  ce := resetCe
  csn := resetCsn
  refused := false
  refusals := []
  draws := 0

/-- The machine right after reset (rules R61 and R290): no transaction is open, and no input has come. -/
def State.reset : State where
  blk := Block.reset
  txn := none
  sck := false
  mosi := false
  miso := none
  insr := 0x00#8
  outsr := 0x00#8
  response := []
  agenda := []

end Sys2Proof.Machine
end

