-- ==== Sys2Proof/Machine/Flags.lean ====
section
/-! DEFINITION. STATUS and its fields (rules R40 to R45), the interrupt flags (rules R42 and R44), and the derived mode (rule
R161). -/

namespace Sys2Proof.Machine

/-- The four derived modes (rule R161). -/
inductive Mode where
  | powerOff
  | standby
  | receive
  | transmit
deriving DecidableEq, Repr

/-- CONFIG.PWR_UP of a CONFIG byte (rule R31). -/
def pwrUpOf (p : Params) (v : Byte) : Bool := v.getLsbD p.layout.posPwrUp

/-- CONFIG.PRIM_RX of a CONFIG byte (rule R32). -/
def primRxOf (p : Params) (v : Byte) : Bool := v.getLsbD p.layout.posPrimRx

/-- The derived mode (rule R161). -/
def Block.mode (b : Block) : Mode :=
  if pwrUpOf b.cfg b.reg0.config = false then .powerOff
  else if b.ce = false then .standby
  else if primRxOf b.cfg b.reg0.config = true then .receive
  else .transmit

/-- STATUS bit 7: the selected bank (rule R25). -/
def Block.bankBit (b : Block) : Bool := b.bank == .bank1

/-- The STATUS pipe-number field (rule R43): the pipe of the head RX entry, or the sentinel 0b111. -/
def Block.pipeField (b : Block) : BitVec 3 :=
  match b.rxf with
  | [] => 0b111#3
  | e :: _ => BitVec.ofNat 3 e.pipe.val

/-- TX_FULL (rule R45). -/
def Block.txFull (b : Block) : Bool := b.txf.length == b.cfg.txDepth

/-- The STATUS bits that have a meaning under a layout (rule R40). -/
def statusCovered (l : Layout) : Byte :=
  0xF0#8 ||| (0b111#8 <<< l.posRxPNo.val) ||| (1#8 <<< l.posTxFull.val)

/-- STATUS() of rule R40, with `d` the drawn byte for the bits the layout leaves uncovered. -/
def Block.status (b : Block) (d : Byte) : Byte :=
  ((BitVec.ofBool b.bankBit).setWidth 8 <<< 7)
    ||| (b.irq.setWidth 8 <<< 4)
    ||| (b.pipeField.setWidth 8 <<< b.cfg.layout.posRxPNo.val)
    ||| ((BitVec.ofBool b.txFull).setWidth 8 <<< b.cfg.layout.posTxFull.val)
    ||| (d &&& ~~~(statusCovered b.cfg.layout))

/-- The flags with bit `k` set (rules R171 to R173). -/
def setFlag (irq : BitVec 3) (k : Fin 3) : BitVec 3 := irq ||| (1#3 <<< k.val)

/-- The flags after a STATUS write of `v`: write one to clear (rules R42 and R216). -/
def clearFlags (irq : BitVec 3) (v : Byte) : BitVec 3 := irq &&& ~~~(v.extractLsb' 4 3)

end Sys2Proof.Machine
end

