-- ==== Sys2Proof/Machine/Operands.lean ====
section
/-! DEFINITION. The operand forms: a register address read through the selected bank (rule R211), the pipe operand (rule R107),
and the head entry of the RX FIFO. -/

namespace Sys2Proof.Machine

/-- The pipe operand, legal 0 to 5 (rule R107). -/
def pipeOperand (p : BitVec 3) : Option Pipe :=
  if h : p.toNat < 6 then some ⟨p.toNat, h⟩ else none

/-- Byte `j` of a bank-0 register's read-back, with `d` the drawn byte (the last branches of rule R211
and rule R51): the stored byte where the mask is clear, the draw elsewhere and past the width. -/
def storedRead (s : Block) (r : Reg0) (j : Nat) (d : Byte) : Byte :=
  match (s.reg0.bytes r)[j]? with
  | some v => (v &&& ~~~(readMaskOf s.cfg r)) ||| (d &&& readMaskOf s.cfg r)
  | none => d

/-- MemReadByte of rule R211: byte `j` of address `a`, with `d` the drawn byte. -/
def readByte (s : Block) (a : BitVec 5) (j : Nat) (d : Byte) : Byte :=
  if a = 0x07#5 then (if j = 0 then s.status d else d)
  else if s.bank = .bank1 then d
  else match reg0At s.cfg.layout a with
    | none => d
    | some .feature =>
      if s.featureLocked then (if j = 0 then 0x00#8 else d) else storedRead s .feature j d
    | some .dynpd => if s.featureLocked then d else storedRead s .dynpd j d
    | some .auxStatus => d
    | some .u08 => d
    | some .u09 => d
    | some r => storedRead s r j d

/-- The data of the head RX entry, none where the FIFO is empty (rules R244 and R246). -/
def Block.rxHead (s : Block) : Option (List Byte) := s.rxf.head?.map RxEntry.data

end Sys2Proof.Machine
end

