-- ==== Sys2Proof/Machine/Output.lean ====
section
/-! DEFINITION. The byte the block shifts out at each byte of a transaction (rule R135 and each command's OUT function). -/

namespace Sys2Proof.Machine

/-- The drawn byte at output byte `i` of the transaction whose snapshot is `snap`. -/
def Block.misoDraw (snap : Block) (i : Nat) : Byte := Config.freeMisoByte snap.draws i

/-- OUT_R_REGISTER (rule R210), for i at least 1. -/
def outRRegister (snap : Block) (a : BitVec 5) (i : Nat) : Byte :=
  readByte snap a (i - 1) (snap.misoDraw i)

/-- OUT_R_RX_PL_WID (rules R244 and R245): the byte count of the head entry in data byte 1. -/
def outRRxPlWid (snap : Block) (i : Nat) : Byte :=
  match snap.rxHead with
  | none => snap.misoDraw i
  | some h =>
    if i = 1 ∧ snap.bank = .bank0 ∧ snap.featureLocked = false then BitVec.ofNat 8 h.length
    else snap.misoDraw i

/-- OUT_R_RX_PAYLOAD (rules R246 and R247), for i at least 1. -/
def outRRxPayload (snap : Block) (i : Nat) : Byte :=
  if snap.bank = .bank1 then snap.misoDraw i
  else match snap.rxHead with
    | none => snap.misoDraw i
    | some h => (h[i - 1]?).getD (snap.misoDraw i)

/-- OUT_cmd of each command for i at least 1 (rules R190, R210, R212, R240, R242, R244, R246, R250, R252);
a reserved command byte's data phase is drawn (rule R135). -/
def outCommand (snap : Block) (cmd : Command) (i : Nat) : Byte :=
  match cmd with
  | .rRegister a => outRRegister snap a i
  | .wRegister _ => snap.misoDraw i
  | .activate => snap.misoDraw i
  | .rRxPlWid => outRRxPlWid snap i
  | .rRxPayload => outRRxPayload snap i
  | .wTxPayload => snap.misoDraw i
  | .wTxPayloadAck _ => snap.misoDraw i
  | .flushTx => snap.misoDraw i
  | .flushRx => snap.misoDraw i
  | .reserved _ => snap.misoDraw i

/-- OUT of rule R135: the byte shifted out as byte `i` of a transaction whose bytes so far are `bytes`. -/
def outByte (snap : Block) (bytes : List Byte) (i : Nat) : Byte :=
  if snap.ready = false then Config.freeBootByte snap.draws i
  else if i = 0 then snap.misoDraw i
  else match bytes with
    | [] => snap.misoDraw i
    | c :: _ => outCommand snap (decodeByte c) i

/-- The whole bytes shifted out over a transaction, one for each byte received. -/
def outBytes (snap : Block) (bytes : List Byte) : List Byte :=
  (List.range bytes.length).map (outByte snap bytes)

end Sys2Proof.Machine
end

