-- ==== Sys2Proof/Machine/Ops.lean ====
section
/-! DEFINITION. The named operations: writing a register (rule R213), the FIFOs, the common checks (rules R254 and R255), and the
one operation by which a refusal is taken (rule R270). -/

namespace Sys2Proof.Machine

/-! Registers -/

/-- Byte `j` of a register after a write of `data`: the data byte, or a draw past the last one (rule R213). -/
def writtenByte (n : Nat) (data : List Byte) (j : Nat) : Byte :=
  (data[j]?).getD (Config.freeRegByte n j)

/-- MemWrite to a bank-0 register (rule R213). -/
def memWrite0 (b : Block) (r : Reg0) (data : List Byte) : Except RefusalCode Block :=
  if data.length = 0 then .ok b
  else if width0 r < data.length then .error .rf04TooManyBytes
  else .ok { b with reg0 := b.reg0.setBytes r (writtenByte b.draws data) }

/-- MemWrite to a bank-1 register (rules R213 and R214). -/
def memWrite1 (b : Block) (r : Reg1) (data : List Byte) : Except RefusalCode Block :=
  if data.length = 0 then .ok b
  else if width1 r < data.length then .error .rf04TooManyBytes
  else .ok { b with reg1 := b.reg1.setBytes r (writtenByte b.draws data) }

/-! FIFOs -/

/-- A drawn well-formed TX FIFO (rules R61 and R165). -/
def Block.drawnTxf (b : Block) : List TxEntry :=
  txFifoOfDraw b.cfg.txDepth (Config.freeTxFifo b.draws)

/-- A drawn well-formed RX FIFO (rules R61 and R165). -/
def Block.drawnRxf (b : Block) : List RxEntry :=
  rxFifoOfDraw b.cfg.rxDepth (Config.freeRxFifo b.draws)

/-- TxPush (rule R241). -/
def txPush (b : Block) (data : List Byte) (ack : Option Pipe) : Except RefusalCode Block :=
  if data.length = 0 ∨ 32 < data.length then .error .rf10PayloadLength
  else if b.txf.length = b.cfg.txDepth then .error .rf09TxFifoFull
  else .ok { b with txf := b.txf ++ [{ data := data, ack := ack }] }

/-- The RX FIFO after a read of `k` payload bytes (rules R246 and R247). -/
def rxConsume (pop : RxPop) (k : Nat) (rxf : List RxEntry) : List RxEntry :=
  match rxf with
  | [] => []
  | e :: rest =>
    if k = 0 then e :: rest
    else match pop with
      | .wholePayloadAtEnd => rest
      | .perByte =>
        if e.data.length ≤ k then rest
        else { e with data := e.data.drop k } :: rest

/-! Checks -/

/-- check_bank (rule R254), then `k`. -/
def checkBank (b : Block) (k : Except RefusalCode Block) : Except RefusalCode Block :=
  if b.bank = .bank1 then .error .rf11WrongBank else k

/-- check_lock (rule R255), then `k`. -/
def checkLock (b : Block) (k : Except RefusalCode Block) : Except RefusalCode Block :=
  if b.featureLocked then .error .rf08FeatureLocked else k

/-! Ending a transaction -/

/-- The state that outputs are computed from: the snapshot of the open transaction (rule R22), and the
block itself where none is open. -/
def State.seen (s : State) : Block :=
  match s.txn with
  | some t => t.snap
  | none => s.blk

/-- The host has received the bytes shifted out over the transaction `bytes` (rule R135). -/
def State.answer (bytes : List Byte) (s : State) : State :=
  { s with response := outBytes s.seen bytes }

/-- The record of a refusal (rules R29, R270, R271): nothing but the mark and the record changes. -/
def Block.markRefused (b : Block) (code : RefusalCode) (bytes : List Byte) : Block :=
  { b with refused := true, refusals := b.refusals ++ [{ code := code, bytes := bytes }] }

/-- Taking a refusal (rule R270): the block's one exceptional outcome. -/
def State.refuse (code : RefusalCode) (bytes : List Byte) (s : State) : State :=
  { s.answer bytes with blk := s.blk.markRefused code bytes }

/-- The end of a transaction carrying `i` (rule R136): the update is applied, or the refusal is taken. -/
def State.conclude (i : Instr) (r : Except RefusalCode Block) (s : State) :
    Host.Outcome State Fault Refusal :=
  match r with
  | .ok b => .next { s.answer (encode i) with blk := b }
  | .error c => .next (s.refuse c (encode i))

end Sys2Proof.Machine
end

