-- ==== Sys2Proof/Machine/Bus.lean ====
section
/-! DEFINITION. The bit level of the bus: the CSN falling edge and the SCK edges (rules R131 to R134). -/

namespace Sys2Proof.Machine

/-- The block as a transaction opens (rule R131): CSN is low, and the transaction's draws have a number. -/
def Block.opened (b : Block) : Block := { b with csn := false, draws := b.draws + 1 }

/-- The CSN falling edge (rule R131). It opens a transaction where none is open. -/
def csnFall (s : State) : State :=
  match s.txn with
  | some _ => { s with blk := { s.blk with csn := false } }
  | none =>
    { s with
      blk := s.blk.opened
      txn := some { snap := s.blk.opened, bytes := [], bit := 0 }
      outsr := outByte s.blk.opened [] 0
      miso := some ((outByte s.blk.opened [] 0).getLsbD 7) }

/-- CSN at its high level. -/
def State.csnHigh (s : State) : State := { s with blk := { s.blk with csn := true } }

/-- The input shift register after one more bit, most significant bit first (rule R132). -/
def shiftIn (insr : Byte) (mosi : Bool) : Byte := (insr <<< 1) ||| (BitVec.ofBool mosi).setWidth 8

/-- The SCK rising edge (rules R132 and R133): MOSI is sampled, and the eighth bit completes a byte and
loads the next output byte. It is ignored where no transaction is open. -/
def sckRise (s : State) : State :=
  match s.txn with
  | none => s
  | some t =>
    if t.bit + 1 = 8 then
      { s with
        insr := shiftIn s.insr s.mosi
        txn := some { t with bytes := t.bytes ++ [shiftIn s.insr s.mosi], bit := 0 }
        outsr := outByte t.snap (t.bytes ++ [shiftIn s.insr s.mosi]) (t.bytes.length + 1) }
    else
      { s with insr := shiftIn s.insr s.mosi, txn := some { t with bit := t.bit + 1 } }

/-- The SCK falling edge (rule R134): MISO shows the next lower bit of the output byte, or bit 7 of the
next one after a byte's eighth rising edge. -/
def sckFall (s : State) : State :=
  match s.txn with
  | none => s
  | some t => { s with miso := some (s.outsr.getLsbD (7 - t.bit)) }

/-- A level put on SCK: only a change of level is an edge. -/
def setSck (v : Bool) (s : State) : State :=
  if v = s.sck then s
  else if v then sckRise { s with sck := true }
  else sckFall { s with sck := false }

/-- A level put on MOSI. -/
def setMosi (v : Bool) (s : State) : State := { s with mosi := v }

/-- What the host's read number `k` of MISO finds: the driven level, or a draw where the pin is not driven
(rule R134). Numbering the reads is the host's: two undriven reads given one `k` between two CSN falling
edges or power-ons are equal, a DESIGN CHOICE (log entry 13). -/
def State.readMiso (s : State) (k : Nat) : Bool := s.miso.getD (Config.freeMisoLevel s.blk.draws k)

end Sys2Proof.Machine
end

