-- ==== Sys2Proof/Machine/Activation.lean ====
section
/-! DEFINITION. The activation commands (42_activate.md). -/

namespace Sys2Proof.Machine

/-- The other bank. -/
def Bank.other : Bank → Bank
  | .bank0 => .bank1
  | .bank1 => .bank0

/-- EXEC_ACTIVATE_BANK's update (rule R191). -/
def toggleBank (b : Block) : Block := { b with bank := Bank.other b.bank }

/-- EXEC_ACTIVATE_BANK (rule R191). -/
def execActivateBank (s : State) : Host.Outcome State Fault Refusal :=
  s.conclude .activateBank (.ok (toggleBank s.blk))

/-- EXEC_ACTIVATE_FEATURE's update (rule R193). -/
def unlockFeature (b : Block) : Except RefusalCode Block :=
  if b.featureLocked then .ok { b with featureLocked := false } else .error .rf07AlreadyUnlocked

/-- EXEC_ACTIVATE_FEATURE (rule R193). -/
def execActivateFeature (s : State) : Host.Outcome State Fault Refusal :=
  s.conclude .activateFeature (unlockFeature s.blk)

end Sys2Proof.Machine
end

