-- ==== Sys2Proof/Machine/Payload.lean ====
section
/-! DEFINITION. The payload and FIFO commands (44_payload_fifo.md). -/

namespace Sys2Proof.Machine

/-- EXEC_R_RX_PL_WID (rule R244): no state change; the bytes out are outRRxPlWid's. -/
def execRRxPlWid (data : List Byte) (s : State) : Host.Outcome State Fault Refusal :=
  s.conclude (.rRxPlWid data) (checkBank s.blk (checkLock s.blk (.ok s.blk)))

/-- EXEC_R_RX_PAYLOAD (rules R246 and R247); the bytes out are outRRxPayload's. -/
def execRRxPayload (data : List Byte) (s : State) : Host.Outcome State Fault Refusal :=
  s.conclude (.rRxPayload data)
    (checkBank s.blk
      (.ok { s.blk with rxf := rxConsume s.blk.cfg.rxPop data.length s.blk.rxf }))

/-- EXEC_W_TX_PAYLOAD (rule R240). -/
def execWTxPayload (data : List Byte) (s : State) : Host.Outcome State Fault Refusal :=
  s.conclude (.wTxPayload data) (checkBank s.blk (txPush s.blk data none))

/-- EXEC_W_TX_PAYLOAD_ACK's update (rule R242); pipe fields 6 and 7 are reserved encodings (rule R103). -/
def pushWithAck (b : Block) (pipe : BitVec 3) (data : List Byte) : Except RefusalCode Block :=
  match pipeOperand pipe with
  | none => .error .rf02ReservedCommand
  | some p => checkBank b (checkLock b (txPush b data (some p)))

/-- EXEC_W_TX_PAYLOAD_ACK (rule R242). -/
def execWTxPayloadAck (pipe : BitVec 3) (data : List Byte) (s : State) :
    Host.Outcome State Fault Refusal :=
  s.conclude (.wTxPayloadAck pipe data) (pushWithAck s.blk pipe data)

/-- EXEC_FLUSH_TX (rule R250). -/
def execFlushTx (data : List Byte) (s : State) : Host.Outcome State Fault Refusal :=
  s.conclude (.flushTx data) (checkBank s.blk (.ok { s.blk with txf := [] }))

/-- EXEC_FLUSH_RX (rule R252). -/
def execFlushRx (data : List Byte) (s : State) : Host.Outcome State Fault Refusal :=
  s.conclude (.flushRx data) (checkBank s.blk (.ok { s.blk with rxf := [] }))

end Sys2Proof.Machine
end

