-- ==== Sys2Proof/Machine/RegisterAccess.lean ====
section
/-! DEFINITION. The register read and write commands (43_register_access.md). -/

namespace Sys2Proof.Machine

/-- EXEC_R_REGISTER (rule R210): no state change; the bytes out are outRRegister's. -/
def execRRegister (addr : BitVec 5) (data : List Byte) (s : State) :
    Host.Outcome State Fault Refusal :=
  s.conclude (.rRegister addr data) (.ok s.blk)

/-- EXEC_W_BANK1 (rule R214). -/
def writeBank1 (b : Block) (addr : BitVec 5) (data : List Byte) : Except RefusalCode Block :=
  match reg1At addr with
  | none => .error .rf03UnmappedWrite
  | some r => memWrite1 b r data

/-- EXEC_W_STATUS (rule R216). -/
def writeStatus (b : Block) (data : List Byte) : Except RefusalCode Block :=
  match data with
  | [] => .ok b
  | [v] => .ok { b with irq := clearFlags b.irq v }
  | _ :: _ :: _ => .error .rf04TooManyBytes

/-- The FIFOs after a CONFIG write (rule R165): drawn where PWR_UP goes from 1 to 0. -/
def powerOffFifos (b : Block) (old new : Byte) : Block :=
  if pwrUpOf b.cfg old = true ∧ pwrUpOf b.cfg new = false then
    { b with txf := b.drawnTxf, rxf := b.drawnRxf }
  else b

/-- EXEC_W_CONFIG (rule R217). -/
def writeConfig (b : Block) (data : List Byte) : Except RefusalCode Block :=
  match data with
  | [] => .ok b
  | [v] =>
    if b.ce = true ∧ (pwrUpOf b.cfg v ≠ pwrUpOf b.cfg b.reg0.config
        ∨ primRxOf b.cfg v ≠ primRxOf b.cfg b.reg0.config) then
      .error .rf12ModeChangeCeHigh
    else
      .ok (powerOffFifos { b with reg0 := { b.reg0 with config := v } } b.reg0.config v)
  | _ :: _ :: _ => .error .rf04TooManyBytes

/-- EXEC_W_AUX (rule R220): each FIFO is left as it is or emptied, as drawn. -/
def writeAux (b : Block) (data : List Byte) : Except RefusalCode Block :=
  match data with
  | [] => .ok b
  | [_] =>
    .ok { b with
      txf := if Config.freeAuxEmptiesTx b.draws then [] else b.txf
      rxf := if Config.freeAuxEmptiesRx b.draws then [] else b.rxf }
  | _ :: _ :: _ => .error .rf04TooManyBytes

/-- EXEC_W_FEATURE (rule R221): ignored while locked. -/
def writeFeature (b : Block) (data : List Byte) : Except RefusalCode Block :=
  match data with
  | [] => .ok b
  | [v] =>
    if b.featureLocked then .ok b else .ok { b with reg0 := { b.reg0 with feature := v } }
  | _ :: _ :: _ => .error .rf04TooManyBytes

/-- EXEC_W_DYNPD (rule R222). -/
def writeDynpd (b : Block) (data : List Byte) : Except RefusalCode Block :=
  if b.featureLocked then .error .rf08FeatureLocked else memWrite0 b .dynpd data

/-- EXEC_W_REGISTER's update (rule R212). -/
def writeRegister (b : Block) (addr : BitVec 5) (data : List Byte) : Except RefusalCode Block :=
  if b.bank = .bank1 then writeBank1 b addr data
  else match reg0At b.cfg.layout addr with
    | none => .error .rf03UnmappedWrite
    | some .status => writeStatus b data
    | some .config => writeConfig b data
    | some .auxStatus => writeAux b data
    | some .feature => writeFeature b data
    | some .dynpd => writeDynpd b data
    | some r => memWrite0 b r data

/-- EXEC_W_REGISTER (rule R212). -/
def execWRegister (addr : BitVec 5) (data : List Byte) (s : State) :
    Host.Outcome State Fault Refusal :=
  s.conclude (.wRegister addr data) (writeRegister s.blk addr data)

end Sys2Proof.Machine
end

