-- ==== Sys2Proof/Machine/Dispatch.lean ====
section
/-! DEFINITION. The meaning of each instruction: one arm per constructor. -/

namespace Sys2Proof.Machine

-- the update a transaction applies at the CSN rising edge (rule R136)
def exec (i : Instr) (s : State) : Host.Outcome State Fault Refusal :=
  match i with
  | .rRegister addr data => Sys2Proof.Machine.execRRegister addr data s
  | .wRegister addr data => Sys2Proof.Machine.execWRegister addr data s
  | .activateBank => Sys2Proof.Machine.execActivateBank s
  | .activateFeature => Sys2Proof.Machine.execActivateFeature s
  | .rRxPlWid data => Sys2Proof.Machine.execRRxPlWid data s
  | .rRxPayload data => Sys2Proof.Machine.execRRxPayload data s
  | .wTxPayload data => Sys2Proof.Machine.execWTxPayload data s
  | .wTxPayloadAck pipe data => Sys2Proof.Machine.execWTxPayloadAck pipe data s
  | .flushTx data => Sys2Proof.Machine.execFlushTx data s
  | .flushRx data => Sys2Proof.Machine.execFlushRx data s

end Sys2Proof.Machine
end

