-- ==== Sys2Proof/Machine/Environment.lean ====
section
/-! DEFINITION. The inputs that are no bus traffic: the CE pin (rule R160), the RadioCore's steps (rules R169 to R176), the Boot
agent's step (rule R291), and power-on (rules R61 and R290). -/

namespace Sys2Proof.Machine

/-- The CE pin action (rule R160), which takes effect at once, also inside a transaction (rule R141). -/
def setCe (v : Bool) (s : State) : State := { s with blk := { s.blk with ce := v } }

/-! RadioCore -/

/-- The guard that the three RadioCore steps share (rules R171 to R173 and R175). -/
def radioMay (m : Mode) (s : State) : Bool := s.blk.ready && s.txn.isNone && s.blk.mode == m

/-- RX_PW_Pp (rule R48). -/
def Block.rxPw (b : Block) (p : Pipe) : Byte :=
  match p.val with
  | 0 => b.reg0.rxPwP0
  | 1 => b.reg0.rxPwP1
  | 2 => b.reg0.rxPwP2
  | 3 => b.reg0.rxPwP3
  | 4 => b.reg0.rxPwP4
  | _ => b.reg0.rxPwP5

/-- dyn(p) of rule R171: dynamic payload is in force on pipe `p`. That bit p of DYNPD is pipe p's, as rule
R171 reads it, is PRESUMED (log entry 29): rule R49 marks it as general knowledge. -/
def Block.dyn (b : Block) (p : Pipe) : Bool :=
  b.reg0.dynpd.getLsbD p.val && b.reg0.feature.getLsbD b.cfg.layout.posEnDpl.val
    && !b.featureLocked

/-- The length condition of rule R171: a fixed size in 1..32 binds where dynamic payload is off. -/
def Block.lengthAdmitted (b : Block) (p : Pipe) (d : List Byte) : Bool :=
  if b.dyn p = false ∧ 1 ≤ (b.rxPw p).toNat ∧ (b.rxPw p).toNat ≤ 32 then
    d.length == (b.rxPw p).toNat
  else true

/-- The guard of RX_DELIVER (rule R171). -/
def rxDeliverMay (p : Pipe) (d : List Byte) (s : State) : Bool :=
  radioMay .receive s && s.blk.reg0.enRxaddr.getLsbD p.val && payloadOk d
    && decide (s.blk.rxf.length < s.blk.cfg.rxDepth) && s.blk.lengthAdmitted p d

/-- RX_DELIVER (rule R171); a payload that is not admitted is lost and changes nothing. -/
def rxDeliver (p : Pipe) (d : List Byte) (s : State) : State :=
  if rxDeliverMay p d s then
    { s with blk := { s.blk with
        rxf := s.blk.rxf ++ [{ pipe := p, data := d }]
        irq := setFlag s.blk.irq s.blk.cfg.irqBits.rxDr } }
  else s

/-- TX_SENT (rule R172). -/
def txSent (s : State) : State :=
  match s.blk.txf with
  | [] => s
  | _ :: rest =>
    if radioMay .transmit s then
      { s with blk := { s.blk with
          txf := rest
          irq := setFlag s.blk.irq s.blk.cfg.irqBits.txDs } }
    else s

/-- TX_MAXRT (rule R173). -/
def txMaxRt (s : State) : State :=
  if radioMay .transmit s && !s.blk.txf.isEmpty then
    { s with blk := { s.blk with irq := setFlag s.blk.irq s.blk.cfg.irqBits.maxRt } }
  else s

/-! Boot agent and power-on -/

/-- BOOT_DONE (rule R291). -/
def bootDone (s : State) : State :=
  if s.blk.ready = false ∧ s.txn = none then { s with blk := { s.blk with ready := true } } else s

/-- The block after power-on (rule R61): the drawn values are free values numbered `n`; the parameters
stay, and CE and CSN stay as the host drives them. -/
def Block.poweredOn (b : Block) (n : Nat) : Block where
  cfg := b.cfg
  ready := false
  bank := if Config.freePorBank1 n then .bank1 else .bank0
  featureLocked := b.cfg.lockedAtPor
  reg0 := Bank0.ofFn (Config.freePorReg0 n)
  reg1 := Bank1.ofFn (Config.freePorReg1 n)
  irq := Config.freePorIrq n
  txf := txFifoOfDraw b.cfg.txDepth (Config.freeTxFifo n)
  rxf := rxFifoOfDraw b.cfg.rxDepth (Config.freeRxFifo n)
  ce := b.ce
  csn := b.csn
  refused := false
  refusals := []
  draws := n

/-- Power-on (rules R61 and R290): no transaction is open afterwards, so MISO is not driven. -/
def powerOn (s : State) : State :=
  { s with
    blk := s.blk.poweredOn (s.blk.draws + 1)
    txn := none
    miso := none
    insr := Config.freePorShift (s.blk.draws + 1) 0
    outsr := Config.freePorShift (s.blk.draws + 1) 1
    response := [] }

end Sys2Proof.Machine
end

