-- ==== Sys2Proof/Machine/Sequencer.lean ====
section
/-! DEFINITION. The CSN rising edge, which runs the transaction's command (rule R136), and the handling of one input. -/

namespace Sys2Proof.Machine

/-- `f` applied to the next state, if there is one. -/
def mapNext (f : State → State) :
    Host.Outcome State Fault Refusal → Host.Outcome State Fault Refusal
  | .next s => .next (f s)
  | .fault r => .fault r
  | .refused r => .refused r

/-- The end of the frame: no transaction is open and MISO is not driven (rules R134 and R136). -/
def State.closeFrame (s : State) : State := { s with txn := none, miso := none }

/-- The dispatcher of rule R136 for the transaction `t`: a partial byte, an empty transaction, a block
that is not ready, and then the command, in that order (rules R137 to R139 and R276). -/
def endFrame (t : Txn) (s : State) : Host.Outcome State Fault Refusal :=
  if t.bit ≠ 0 then .next (s.refuse .rf01PartialByte t.bytes)
  else match t.bytes with
    | [] => .next (s.answer [])
    | c :: data =>
      if s.blk.ready = false then .next (s.answer (c :: data))
      else match decodeFrame c data with
        | .ok i => exec i s
        | .error code => .next (s.refuse code (c :: data))

/-- The CSN rising edge (rule R136). -/
def csnRise (s : State) : Host.Outcome State Fault Refusal :=
  match s.txn with
  | none => .next s.csnHigh
  | some t => mapNext State.closeFrame (endFrame t s.csnHigh)

/-- A level put on CSN: only a change of level is an edge. -/
def setCsn (v : Bool) (s : State) : Host.Outcome State Fault Refusal :=
  if v = s.blk.csn then .next s
  else if v then csnRise s
  else .next (csnFall s)

/-- One input. A host delay changes nothing (rule R312). -/
def handle (e : Event) (s : State) : Host.Outcome State Fault Refusal :=
  match e with
  | .ce v => .next (setCe v s)
  | .csn v => setCsn v s
  | .sck v => .next (setSck v s)
  | .mosi v => .next (setMosi v s)
  | .wait _ => .next s
  | .rxDeliver p d => .next (rxDeliver p d s)
  | .txSent => .next (txSent s)
  | .txMaxRt => .next (txMaxRt s)
  | .bootDone => .next (bootDone s)
  | .powerOn => .next (powerOn s)

/-- The next input is taken from the agenda; where none comes, nothing changes (rule R169). -/
def takeInput (s : State) : Host.Outcome State Fault Refusal :=
  match s.agenda with
  | [] => .next s
  | e :: rest => handle e { s with agenda := rest }

/-- A ready block with a transaction of these bytes open and its CSN rising edge next on the agenda. -/
def withFrame (bytes : List Byte) (s : State) : State :=
  { s with
    blk := { s.blk with ready := true, csn := false }
    txn := some { snap := { s.blk with ready := true, csn := false }, bytes := bytes, bit := 0 }
    agenda := .csn true :: s.agenda }

end Sys2Proof.Machine
end

