-- ==== Sys2Proof/Machine/Step.lean ====
section
/-! DEFINITION. One step of the machine, and the placing of an instruction so that the next step runs it. -/

namespace Sys2Proof.Machine

/-- One step: the next input of the agents (rule R14). -/
def step (s : State) : Host.Outcome State Fault Refusal := takeInput s

/-- `s` with a transaction of the table's word open, so that the next step, its CSN rising edge, runs it
(log entry 9). -/
def State.withFetchWord (s : State) (nbits w : Nat) : State := withFrame (tableBytes nbits w) s

end Sys2Proof.Machine
end

