-- ==== Sys2Proof/Machine/Fields.lean ====
section
/-! DEFINITION. What the stored configuration means (rules R33 to R39, R46, R47 and R55). These values configure the radio core,
whose steps the spec leaves unrefined by them (rule R176), so no step reads them. -/

namespace Sys2Proof.Machine

/-- The CRC lengths of rule R33. -/
inductive CrcLength where
  | off
  | bits8
  | bits16
deriving DecidableEq, Repr

/-- The CRC length that CONFIG selects (rule R33). That CRCO = 0 is 8 bits is PRESUMED (log entry 32): the
rule marks it as general knowledge. -/
def Block.crcLength (b : Block) : CrcLength :=
  if b.reg0.config.getLsbD b.cfg.layout.posEnCrc.val = false then .off
  else if b.reg0.config.getLsbD b.cfg.layout.posCrco.val = false then .bits8
  else .bits16

/-- The auto-acknowledge flag of a pipe (rule R34). That bit p is pipe p's is PRESUMED (log entry 29): the
rule marks it as general knowledge. -/
def Block.autoAck (b : Block) (p : Pipe) : Bool := b.reg0.enAa.getLsbD p.val

/-- The receive-enable flag of a pipe (rule R35). -/
def Block.rxEnabled (b : Block) (p : Pipe) : Bool := b.reg0.enRxaddr.getLsbD p.val

/-- The retry count ARC (rule R36). -/
def Block.retryCount (b : Block) : BitVec 4 :=
  b.reg0.setupRetr.extractLsb' b.cfg.layout.posArc.val 4

/-- The retry delay in microseconds (rule R36). -/
def Block.retryDelay (b : Block) : Nat :=
  Config.retryDelayMap (b.reg0.setupRetr.extractLsb' b.cfg.layout.posArd.val 4)

/-- The chip-wide address width in bytes (rule R37): stored as the width less 2, and unknown for a byte
that is not 1, 2 or 3. -/
def Block.addrWidth (b : Block) : Nat :=
  if b.reg0.setupAw = 1#8 then 3
  else if b.reg0.setupAw = 2#8 then 4
  else if b.reg0.setupAw = 3#8 then 5
  else Config.addrWidthOf b.reg0.setupAw

/-- The RF_PWR field (rule R38). -/
def Block.rfPwr (b : Block) : BitVec 2 := b.reg0.rfSetup.extractLsb' b.cfg.layout.posRfPwr.val 2

/-- The RF_SETUP byte `v` with RF_PWR replaced (rule R38). -/
def withRfPwr (l : Layout) (v : Byte) (f : BitVec 2) : Byte :=
  (v &&& ~~~(0b11#8 <<< l.posRfPwr.val)) ||| (f.setWidth 8 <<< l.posRfPwr.val)

/-- The 3-bit analog trim in a bank-1 register 4 (rule R55). -/
def trimOf (v : Bytes4) : BitVec 3 :=
  BitVec.ofBool (v.bits.getLsbD (Config.trimPlace 2)) ++ BitVec.ofBool (v.bits.getLsbD (Config.trimPlace 1))
    ++ BitVec.ofBool (v.bits.getLsbD (Config.trimPlace 0))

/-- A bank-1 register 4 with the trim `t` spliced in (rules R38 and R55): its three bits and no other. -/
def spliceTrim (t : BitVec 3) (v : Bytes4) : Bytes4 :=
  .ofBits (withBit (withBit (withBit v.bits (Config.trimPlace 0) (t.getLsbD 0))
    (Config.trimPlace 1) (t.getLsbD 1)) (Config.trimPlace 2) (t.getLsbD 2))

/-- The trim that bank-1 register 4 holds (rule R55). -/
def Block.txTrim (b : Block) : BitVec 3 := trimOf b.reg1.r04

/-- Whether RF_PWR and the trim select an output power level (rule R38). -/
def Block.hasTxLevel (b : Block) (level : TxLevel) : Bool :=
  (b.rfPwr, b.txTrim) == Config.txPwrMap level

/-- The LNA-gain bit (rule R39). -/
def Block.lnaGain (b : Block) : Bool := b.reg0.rfSetup.getLsbD b.cfg.layout.posLna.val

/-- Whether RF_SETUP selects a data rate (rule R39). -/
def Block.hasDataRate (b : Block) (r : DataRate) : Bool :=
  (b.reg0.rfSetup.getLsbD b.cfg.layout.posDrLow.val,
    b.reg0.rfSetup.getLsbD b.cfg.layout.posDrHigh.val) == Config.drMap r

/-- The carrier in MHz of a channel in 0 to 83, none for a stored value above, whose meaning is unknown
(rule R46). That the whole byte is the channel is PRESUMED (log entry 30): the rule marks the field's
width, 7 bits in RFM75_REF, as general knowledge. -/
def Block.carrierMHz (b : Block) : Option Nat :=
  if b.reg0.rfCh.toNat ≤ 83 then some (2400 + b.reg0.rfCh.toNat) else none

/-- The effective receive address of a pipe, first byte on the wire first (rule R47): pipes 2 to 5 have
their own first byte and share the others with pipe 1. That byte 0 is the low byte, the one they replace, is
PRESUMED (log entry 33): rules R47 and R83 mark it as general knowledge. -/
def Block.rxAddress (b : Block) (p : Pipe) : List Byte :=
  match p.val with
  | 0 => b.reg0.rxAddrP0.toList.take b.addrWidth
  | 1 => b.reg0.rxAddrP1.toList.take b.addrWidth
  | 2 => (b.reg0.rxAddrP2 :: b.reg0.rxAddrP1.toList.drop 1).take b.addrWidth
  | 3 => (b.reg0.rxAddrP3 :: b.reg0.rxAddrP1.toList.drop 1).take b.addrWidth
  | 4 => (b.reg0.rxAddrP4 :: b.reg0.rxAddrP1.toList.drop 1).take b.addrWidth
  | _ => (b.reg0.rxAddrP5 :: b.reg0.rxAddrP1.toList.drop 1).take b.addrWidth

/-- The transmit address (rule R47). -/
def Block.txAddress (b : Block) : List Byte := b.reg0.txAddr.toList.take b.addrWidth

end Sys2Proof.Machine
end

