-- ==== Sys2Proof/Machine/HostPrograms.lean ====
section
/-! DEFINITION. The host's side as the spec writes it: a transaction as pin levels (rules R130 to R134), the pseudo-instructions
(rule R113), the mode sequences (rule R114), the bring-up (rule R294) with the state it leaves (rule R295), and the register-4
toggle (rule R302). Host programs are inputs of the machine: no step calls one. -/

namespace Sys2Proof.Machine

/-- One bit on the bus: MOSI set while SCK is low, then the rising and the falling edge (rule R130). -/
def bitEvents (v : Bool) : List Event := [.mosi v, .sck true, .sck false]

/-- One byte on the bus, most significant bit first (rule R82). -/
def byteEvents (b : Byte) : List Event :=
  bitEvents (b.getLsbD 7) ++ bitEvents (b.getLsbD 6) ++ bitEvents (b.getLsbD 5)
    ++ bitEvents (b.getLsbD 4) ++ bitEvents (b.getLsbD 3) ++ bitEvents (b.getLsbD 2)
    ++ bitEvents (b.getLsbD 1) ++ bitEvents (b.getLsbD 0)

/-- A transaction of whole bytes as pin levels (rule R112). -/
def frameEvents (bytes : List Byte) : List Event :=
  .csn false :: (bytes.flatMap byteEvents ++ [.csn true])

/-! Pseudo-instructions (rule R113), as the instructions they send -/

def rd1 (a : BitVec 5) : Instr := .rRegister a [0x00#8]

def wr1 (a : BitVec 5) (v : Byte) : Instr := .wRegister a [v]

def wrN (a : BitVec 5) (vs : List Byte) : Instr := .wRegister a vs

def statusQuery : Instr := rd1 0x07#5

def clearIrq : Instr := wr1 0x07#5 0x70#8

def bankToggle : Instr := .activateBank

def featureUnlock : Instr := .activateFeature

def hostFlushTx : Instr := .flushTx [0x00#8]

def hostFlushRx : Instr := .flushRx [0x00#8]

def rdPlWidth : Instr := .rRxPlWid [0x00#8]

def rdPl1 : Instr := .rRxPayload [0x00#8]

/-- The pin levels that send instructions one after the other. -/
def sendAll (is : List Instr) : List Event := is.flatMap (fun i => frameEvents (encode i))

/-! Mode sequences (rule R114); `v` is the CONFIG byte the sequence's read returned -/

def modePowerOff (l : Layout) (v : Byte) : List Event :=
  .ce false :: sendAll [rd1 l.aConfig, wr1 l.aConfig (withBit v l.posPwrUp false)]

def modePowerOn (l : Layout) (v : Byte) : List Event :=
  sendAll [rd1 l.aConfig, wr1 l.aConfig (withBit v l.posPwrUp true)]

def modeRx (l : Layout) (v : Byte) : List Event :=
  .ce false :: (sendAll [clearIrq, rd1 l.aConfig, wr1 l.aConfig (withBit v l.posPrimRx true),
    hostFlushRx] ++ [.ce true])

def modeTx (l : Layout) (v : Byte) : List Event :=
  .ce false :: (sendAll [clearIrq, rd1 l.aConfig, wr1 l.aConfig (withBit v l.posPrimRx false),
    hostFlushTx] ++ [.ce true])

def modeStandby : List Event := [.ce false]

/-! The bring-up and the register-4 toggle -/

/-- B1_DEFAULTS (rule R300): 14 groups of 4 bytes and one of 11. -/
def b1Defaults : Bank1 := Bank1.ofFn Config.b1Default

/-- A default of B0_DEFAULTS (rule R300), as many bytes as its register has. -/
def b0Bytes (r : Reg0) : List Byte := (List.range (width0 r)).map (Config.b0Default r)

/-- `B1R4'` of rule R302: the register-4 default with the toggle bit set. -/
def b1r4Toggled : Bytes4 := .ofBits (withBit b1Defaults.r04.bits Config.b1r4ToggleBit true)

/-- The first half of the register-4 toggle (rule R302, steps 1 and 2). -/
def toggleOn : List Instr := [bankToggle, wrN 0x04#5 b1r4Toggled.toList]

/-- The second half of the register-4 toggle (rule R302, steps 4 and 5). -/
def toggleOff : List Instr := [wrN 0x04#5 b1Defaults.r04.toList, bankToggle]

/-- The register-4 toggle (rules R302 and R304). -/
def register4Toggle : List Event := sendAll toggleOn ++ [.wait 20] ++ sendAll toggleOff

/-- The pins as the bring-up sets them first: CSN high, CE low (rule R294, step 1). -/
def bringUpPins : List Event := [.csn true, .ce false]

/-- One readiness poll (rule R294, step 2). -/
def readinessPoll : List Event := sendAll [statusQuery, bankToggle, statusQuery]

/-- Every bank-1 register with its address, in the order of the bring-up table (rule R54). -/
def reg1Table : List (BitVec 5 × Reg1) :=
  [(0x00#5, .r00), (0x01#5, .r01), (0x02#5, .r02), (0x03#5, .r03), (0x04#5, .r04), (0x05#5, .r05),
   (0x06#5, .r06), (0x07#5, .r07), (0x08#5, .r08), (0x09#5, .r09), (0x0A#5, .r0A), (0x0B#5, .r0B),
   (0x0C#5, .r0C), (0x0D#5, .r0D), (0x0E#5, .r0E)]

/-- The bank-1 default writes (rule R294, step 4): 14 of 4 bytes, then one of 11. -/
def bank1Defaults : List Instr := reg1Table.map (fun e => wrN e.1 (b1Defaults.bytes e.2))

/-- The ten single-byte registers that the bring-up writes first (rule R294, step 7; program P1). -/
def singleDefaults : List Reg0 :=
  [.config, .enAa, .enRxaddr, .setupAw, .setupRetr, .rfCh, .rfSetup, .status, .u08, .u09]

/-- The registers that a trim or size write may reach: the single-byte storage registers of rule R295 without
CONFIG, whose value rule R168 takes from its own default write. DEDUCED (log entry 31). -/
def trimTargets : Vector Reg0 18 :=
  #v[.enAa, .enRxaddr, .setupAw, .setupRetr, .rfCh, .rfSetup,
     .rxAddrP2, .rxAddrP3, .rxAddrP4, .rxAddrP5,
     .rxPwP0, .rxPwP1, .rxPwP2, .rxPwP3, .rxPwP4, .rxPwP5, .dynpd, .feature]

/-- A trim or size write: the register it reaches and its byte. -/
def trimWrite (t : Fin 18 × Byte) : Reg0 × List Byte := (trimTargets[t.1], [t.2])

/-- The bank-0 default writes (rule R294, step 7), each a register and its bytes: ten single bytes, three
addresses (TX_ADDR with the RX_ADDR_P1 bytes), four trims, five sizes, and the three trailing writes. -/
def bank0Writes : List (Reg0 × List Byte) :=
  singleDefaults.map (fun r => (r, b0Bytes r))
    ++ [(.rxAddrP0, b0Bytes .rxAddrP0), (.rxAddrP1, b0Bytes .rxAddrP1), (.txAddr, b0Bytes .rxAddrP1)]
    ++ (List.finRange 4).map (fun k => trimWrite (Config.pipeTrim k))
    ++ (List.finRange 5).map (fun k => trimWrite (Config.sizeTrim k))
    ++ [(.auxStatus, [0x00#8]), (.dynpd, [0x00#8]), (.feature, [0x02#8])]

/-- Register writes as instructions. -/
def writesOf (l : Layout) (ws : List (Reg0 × List Byte)) : List Instr :=
  ws.map (fun w => wrN (addr0 l w.1) w.2)

/-- The bytes that the last write to a register carries, if any write reaches it. -/
def lastWrite (ws : List (Reg0 × List Byte)) (r : Reg0) : Option (List Byte) := ws.reverse.lookup r

/-- The feature probe of rule R294, steps 5 and 6: bank 0, FEATURE written with 0x01 and read. -/
def featureProbe : List Instr := [bankToggle, wr1 0x1D#5 0x01#8, rd1 0x1D#5]

/-- The bring-up's transactions from bank 1 to its first wait (rule R294, steps 4 to 7): `f6` is the FEATURE
byte read at step 6. -/
def bringUpWrites (l : Layout) (f6 : Byte) : List Instr :=
  bank1Defaults ++ featureProbe ++ (if f6 = 0x00#8 then [featureUnlock] else []) ++ writesOf l bank0Writes

/-- The bring-up after its readiness poll (rule R294, steps 3 to 10, with the waits of rules R303 to R305):
`s3` is the STATUS byte read at step 3, and `f6` the FEATURE byte read at step 6. -/
def bringUp (l : Layout) (s3 f6 : Byte) : List Event :=
  sendAll [statusQuery] ++ (if s3.getLsbD 7 then [] else sendAll [bankToggle])
    ++ sendAll (bringUpWrites l f6) ++ [.wait 2000] ++ register4Toggle ++ [.wait 1000]

/-- The state after the bring-up (rule R295): what its writes settle. The flags and the FIFOs are as its
STATUS and AUX_STATUS writes left them. -/
structure Block.BroughtUp (b : Block) : Prop where
  bank : b.bank = .bank0
  unlocked : b.featureLocked = false
  reg1 : b.reg1 = b1Defaults
  stored : ∀ r v, r ≠ .status → r ≠ .auxStatus → lastWrite bank0Writes r = some v → b.reg0.bytes r = v
  ce : b.ce = false

/-- The transmit-power change (rule R38): RF_PWR rewritten in the RF_SETUP byte `v` that was read, and
the trim spliced into bank-1 register 4. -/
def setTxPower (l : Layout) (v : Byte) (level : TxLevel) : List Event :=
  sendAll [rd1 l.aRfSetup, wr1 l.aRfSetup (withRfPwr l v (Config.txPwrMap level).1), bankToggle,
    wrN 0x04#5 (spliceTrim (Config.txPwrMap level).2 b1Defaults.r04).toList, bankToggle]

end Sys2Proof.Machine
end

