-- ==== Sys2Proof/Safety.lean ====
section
/-! DEFINITION. What claims about runs are stated in terms of: the run's premise, the machine's invariant, and the spec's
named assumptions. -/

namespace Sys2Proof.Machine

/-- The premise of every claim about a run: no refusal is recorded (rule R270). -/
def State.safe (s : State) : Bool := !s.blk.refused

/-- The launch premises of a host program: no refusal recorded and no transaction open (rule R293). -/
def State.launch (s : State) : Bool := s.safe && s.txn.isNone

/-- What every block that ran from power-on meets: the parameters are admissible, the FIFOs are
well-formed (rules R57 and R58), and a refusal is marked exactly when one is recorded (rule R270). -/
def Block.wf (b : Block) : Bool :=
  paramsOk b.cfg && txFifoOk b.cfg.txDepth b.txf && rxFifoOk b.cfg.rxDepth b.rxf
    && (b.refused == !b.refusals.isEmpty)

/-- What an open transaction meets: CSN is low, MISO is driven, fewer than 8 bits of a byte have come,
the block differs from the snapshot at most in CE (rule R136), and the output register holds the byte
that rule R135 gives. -/
def State.txnInv (s : State) (t : Txn) : Prop :=
  s.blk.csn = false ∧ s.miso.isSome = true ∧ t.bit < 8
    ∧ t.snap = { s.blk with ce := t.snap.ce }
    ∧ s.outsr = outByte t.snap t.bytes t.bytes.length

/-- The machine's invariant: the block is well-formed; an open transaction is as rules R131 to R136
leave it; and MISO is driven only while one is open (rule R134). -/
def State.Inv (s : State) : Prop :=
  s.blk.wf = true ∧ (s.txn = none → s.miso = none) ∧ ∀ t, s.txn = some t → s.txnInv t

/-- The bus inputs that close the open transaction `t`: the CSN rising edge comes next (rule R136). -/
def EndsFrame (s : State) (t : Txn) (rest : List Event) : Prop :=
  s.agenda = .csn true :: rest ∧ s.blk.csn = false ∧ s.txn = some t

/-- The state in which the dispatcher of rule R136 runs the command: the edge is taken, CSN is high. -/
def State.risen (s : State) (rest : List Event) : State :=
  { s with agenda := rest, blk := { s.blk with csn := true } }

/-- Every byte that a ready block shifts out over the transaction `bytes` is a draw (rule R272). -/
def State.ShiftsOutDraws (s : State) (bytes : List Byte) : Prop :=
  s.seen.ready = true →
    outBytes s.seen bytes = (List.range bytes.length).map (Config.freeMisoByte s.seen.draws)

/-- The steps of the RadioCore (rule R169). -/
def Event.isRadio : Event → Bool
  | .rxDeliver _ _ => true
  | .txSent => true
  | .txMaxRt => true
  | .ce _ => false
  | .csn _ => false
  | .sck _ => false
  | .mosi _ => false
  | .wait _ => false
  | .bootDone => false
  | .powerOn => false

/-- The bank-0 registers that W_REGISTER writes by MemWrite with no side effect (rules R218 and R223). -/
def plainReg0 : List Reg0 :=
  [.enAa, .enRxaddr, .setupAw, .setupRetr, .rfCh, .rfSetup, .u08, .u09,
   .rxAddrP0, .rxAddrP1, .rxAddrP2, .rxAddrP3, .rxAddrP4, .rxAddrP5, .txAddr,
   .rxPwP0, .rxPwP1, .rxPwP2, .rxPwP3, .rxPwP4, .rxPwP5]

/-- The block with its bank-1 storage replaced by a constant. -/
def Block.hideReg1 (b : Block) : Block := { b with reg1 := resetBank1 }

/-- What is left of the state when the bank-1 storage is hidden, in the block and in the snapshot of an
open transaction. -/
def State.hideReg1 (s : State) : State :=
  { s with
    blk := s.blk.hideReg1
    txn := s.txn.map (fun t => { t with snap := t.snap.hideReg1 }) }

/-- The named assumption BootEventuallyReady (rules R273 and R291), for the run from `s`: after finitely many
steps the block is ready, so a block that is not ready takes BOOT_DONE with its guard met. No step of the
model takes it. -/
def BootEventuallyReady (s : State) : Prop :=
  ∃ k u, Host.Core.run core k s = .next u ∧ u.blk.ready = true

/-- The named assumption BootReadinessHonest (rule R292): the data bytes drawn in a status query and
in the query two transactions later never differ in bit 7 alone. No step of the model takes it. -/
def BootReadinessHonest : Prop :=
  ∀ n, Config.freeBootByte n 1 ^^^ Config.freeBootByte (n + 2) 1 ≠ 0x80#8

/-- The named assumption MaxRtStalls (rule R174), for the next step: no TX step comes while the max-retries
flag is set. No step of the model takes it. -/
def MaxRtStalls (s : State) : Prop :=
  s.blk.irq.getLsbD s.blk.cfg.irqBits.maxRt.val = true →
    s.agenda.head? ≠ some .txSent ∧ s.agenda.head? ≠ some .txMaxRt

end Sys2Proof.Machine
end

