-- ==== Sys2Proof/Certificates/Slice0/Obligations.lean ====
section
/-! DEFINITION. The statements for the provers, each citing the rule of the spec it formalises. -/

open Sys2Proof Sys2Proof.Machine

/-! Encoding -/

/-- Rules R101 to R106: decoding the transaction of a well-formed instruction gives the instruction. -/
def Obligations.DecodeOfEncodeIsIdentity : Prop :=
  ∀ i : Instr, i.wf = true →
    ∃ c data, encode i = c :: data ∧ decodeFrame c data = .ok i

/-- Rules R101 to R106: a transaction that decodes is the encoding of the well-formed instruction it
decodes to, so no bit of it is dropped and no two instructions share it. -/
def Obligations.EncodeOfDecodeIsIdentity : Prop :=
  ∀ (c : Byte) (data : List Byte) (i : Instr),
    decodeFrame c data = .ok i → i.wf = true ∧ encode i = c :: data

/-- Rule R105: what each command byte selects: the register ranges with their address, the fixed
bytes, the pipe range with its pipe; every other byte is reserved. -/
def Obligations.CommandByteSpaceIsTheOpcodeMap : Prop :=
  ∀ c : Byte,
    (c.toNat ≤ 0x1F → decodeByte c = .rRegister (c.setWidth 5))
    ∧ (0x20 ≤ c.toNat ∧ c.toNat ≤ 0x3F → decodeByte c = .wRegister (c.setWidth 5))
    ∧ (0x40 ≤ c.toNat ∧ c.toNat ≤ 0x4F → decodeByte c = .reserved c)
    ∧ (c = 0x50#8 → decodeByte c = .activate)
    ∧ (0x51 ≤ c.toNat ∧ c.toNat ≤ 0x5F → decodeByte c = .reserved c)
    ∧ (c = 0x60#8 → decodeByte c = .rRxPlWid)
    ∧ (c = 0x61#8 → decodeByte c = .rRxPayload)
    ∧ (0x62 ≤ c.toNat ∧ c.toNat ≤ 0x9F → decodeByte c = .reserved c)
    ∧ (c = 0xA0#8 → decodeByte c = .wTxPayload)
    ∧ (0xA1 ≤ c.toNat ∧ c.toNat ≤ 0xA7 → decodeByte c = .reserved c)
    ∧ (0xA8 ≤ c.toNat ∧ c.toNat ≤ 0xAD → decodeByte c = .wTxPayloadAck (c.setWidth 3))
    ∧ (0xAE ≤ c.toNat ∧ c.toNat ≤ 0xE0 → decodeByte c = .reserved c)
    ∧ (c = 0xE1#8 → decodeByte c = .flushTx)
    ∧ (c = 0xE2#8 → decodeByte c = .flushRx)
    ∧ (0xE3 ≤ c.toNat → decodeByte c = .reserved c)

/-- The example transactions of rule R112 and of 95_test_vectors.md, at least one of each format,
decode to the instructions they stand for. -/
def Obligations.WrittenOutTransactionsDecode : Prop :=
  decodeFrame 0x1D#8 [0x00#8] = .ok (.rRegister 0x1D#5 [0x00#8])
  ∧ decodeFrame 0x27#8 [0x70#8] = .ok (.wRegister 0x07#5 [0x70#8])
  ∧ decodeFrame 0x50#8 [0x53#8] = .ok .activateBank
  ∧ decodeFrame 0x50#8 [0x73#8] = .ok .activateFeature
  ∧ decodeFrame 0xAA#8 [0x41#8] = .ok (.wTxPayloadAck 2#3 [0x41#8])
  ∧ decodeFrame 0xE2#8 [0x00#8] = .ok (.flushRx [0x00#8])

/-! Transactions -/

/-- Rule R136: when CSN rises on a whole-byte transaction of a ready block that decodes to an
instruction, the step is exec of it with CSN high and the input taken, and then the frame is closed. -/
def Obligations.StepRunsTheDecodedInstruction : Prop :=
  ∀ (s : State) (t : Txn) (rest : List Event) (c : Byte) (data : List Byte) (i : Instr),
    EndsFrame s t rest → t.bit = 0 → t.bytes = c :: data → s.blk.ready = true →
    decodeFrame c data = .ok i →
    step s = mapNext State.closeFrame (exec i (s.risen rest))

/-- Rule R108 (the spec's decision D19): a transaction whose command byte is reserved is refused with
RF02 whatever its data bytes, and an ACTIVATE with an argument that is not 0x53 or 0x73 with RF05. -/
def Obligations.ReservedEncodingsAreRefused : Prop :=
  ∀ (s : State) (t : Txn) (rest : List Event) (c : Byte) (data : List Byte),
    EndsFrame s t rest → t.bit = 0 → t.bytes = c :: data → s.blk.ready = true →
    (decodeByte c = .reserved c →
      ∃ u, step s = .next u ∧ u.txn = none ∧ u.blk = { s.blk with
        csn := true, refused := true
        refusals := s.blk.refusals ++ [⟨.rf02ReservedCommand, c :: data⟩] })
    ∧ (∀ arg, c = 0x50#8 → data = [arg] → arg ≠ 0x53#8 → arg ≠ 0x73#8 →
      ∃ u, step s = .next u ∧ u.txn = none ∧ u.blk = { s.blk with
        csn := true, refused := true
        refusals := s.blk.refusals ++ [⟨.rf05ActivateArgument, c :: data⟩] })

/-- Rules R190 and R276 (the spec's decision D20): an ACTIVATE that does not carry exactly one
argument byte is refused with RF06, whatever its bytes are. -/
def Obligations.ActivateCountIsChecked : Prop :=
  ∀ (s : State) (t : Txn) (rest : List Event) (data : List Byte),
    EndsFrame s t rest → t.bit = 0 → t.bytes = 0x50#8 :: data → s.blk.ready = true →
    data.length ≠ 1 →
    ∃ u, step s = .next u ∧ u.txn = none ∧ u.blk = { s.blk with
      csn := true, refused := true
      refusals := s.blk.refusals ++ [⟨.rf06ActivateCount, t.bytes⟩] }

/-- Rule R137 (the spec's decision D18): CSN rising in the middle of a byte is refused with RF01 and
has no effect. -/
def Obligations.PartialByteIsRefused : Prop :=
  ∀ (s : State) (t : Txn) (rest : List Event), EndsFrame s t rest → t.bit ≠ 0 →
    ∃ u, step s = .next u ∧ u.txn = none ∧ u.blk = { s.blk with
      csn := true, refused := true
      refusals := s.blk.refusals ++ [⟨.rf01PartialByte, t.bytes⟩] }

/-- Rule R138 (the spec's decision D36): while the block is not ready, every byte out is a draw, a
transaction of whole bytes has no effect and is not refused, and a fractional byte is refused with
RF01. -/
def Obligations.NotReadyTransactionHasNoEffect : Prop :=
  (∀ (b : Block) (bytes : List Byte) (i : Nat), b.ready = false →
    outByte b bytes i = Config.freeBootByte b.draws i)
  ∧ (∀ (s : State) (t : Txn) (rest : List Event), EndsFrame s t rest → s.blk.ready = false →
    (t.bit = 0 → ∃ u, step s = .next u ∧ u.txn = none ∧ u.blk = { s.blk with csn := true })
    ∧ (t.bit ≠ 0 → ∃ u, step s = .next u ∧ u.txn = none ∧ u.blk = { s.blk with
        csn := true, refused := true
        refusals := s.blk.refusals ++ [⟨.rf01PartialByte, t.bytes⟩] }))

/-- Rule R139 (the spec's decision D17): CSN rising on a transaction with no whole byte and no bit, whatever
came in between, has no effect and is not refused; so CSN falling and rising at once changes nothing but
the model's own draw counter (log entry 7). -/
def Obligations.EmptyTransactionHasNoEffect : Prop :=
  (∀ (s : State) (t : Txn) (rest : List Event), EndsFrame s t rest → t.bit = 0 → t.bytes = [] →
    ∃ u : State, step s = .next u ∧ u.agenda = rest ∧ u.txn = none
      ∧ u.blk = { s.blk with csn := true })
  ∧ (∀ (s : State) (rest : List Event), s.blk.csn = true → s.txn = none →
    s.agenda = .csn false :: .csn true :: rest →
    ∃ u : State, Host.Core.run core 2 s = .next u ∧ u.agenda = rest ∧ u.txn = none
      ∧ u.blk = { s.blk with draws := s.blk.draws + 1 })

/-- Rules R132 and R133: eight bits on the bus, most significant first, append their byte to the open
transaction and load the next output byte. -/
def Obligations.BusBitsAssembleTheByte : Prop :=
  ∀ (s : State) (t : Txn) (b : Byte) (rest : List Event),
    s.txn = some t → t.bit = 0 → s.sck = false → s.agenda = byteEvents b ++ rest →
    Host.Core.run core 24 s = .next { s with
      agenda := rest
      mosi := b.getLsbD 0
      insr := b
      txn := some { t with bytes := t.bytes ++ [b] }
      outsr := outByte t.snap (t.bytes ++ [b]) (t.bytes.length + 1)
      miso := some ((outByte t.snap (t.bytes ++ [b]) (t.bytes.length + 1)).getLsbD 7) }

/-- Rule R134 (the spec's decision D16): while a byte is on the bus, MISO shows the output byte's
bits 7 down to 0, bit 7 - k at the byte's (k+1)-th rising edge. -/
def Obligations.MisoShowsTheOutputByteInOrder : Prop :=
  ∀ (s : State) (t : Txn) (b : Byte) (rest : List Event) (k : Nat),
    s.txn = some t → t.bit = 0 → s.sck = false → s.miso = some (s.outsr.getLsbD 7) →
    s.agenda = byteEvents b ++ rest → k < 8 →
    ∃ u : State, Host.Core.run core (3 * k) s = .next u
      ∧ u.miso = some (s.outsr.getLsbD (7 - k)) ∧ u.sck = false

/-- Rules R131 to R136: sending a well-formed instruction's bytes as pin levels to a ready block runs
exec of that instruction on the block, with the snapshot taken at the CSN falling edge, and closes the
frame. -/
def Obligations.PinLevelsOfAFrameRunTheInstruction : Prop :=
  ∀ (s : State) (i : Instr) (rest : List Event),
    i.wf = true → s.blk.ready = true → s.blk.csn = true → s.txn = none → s.sck = false →
    s.agenda = frameEvents (encode i) ++ rest →
    ∃ v : State, v.agenda = rest
      ∧ v.blk = { s.blk with draws := s.blk.draws + 1 }
      ∧ v.txn = some { snap := { s.blk with csn := false, draws := s.blk.draws + 1 },
                       bytes := encode i, bit := 0 }
      ∧ v.sck = false
      ∧ Host.Core.run core (24 * (encode i).length + 2) s = mapNext State.closeFrame (exec i v)

/-! The whole machine -/

/-- Rules R15 and R270 (the spec's decision D42; log entry 6 for the refusals): there are no hardware
traps, so every step answers a next state, whatever the state. -/
def Obligations.EveryStepAnswersANextState : Prop :=
  ∀ s : State, ∃ u, step s = .next u

/-- Rules R57, R58, R134, R136 and R270: every step keeps the invariant of Safety.lean, in which the
FIFOs are well-formed and the open transaction's snapshot differs from the block at most in CE. -/
def Obligations.StepKeepsTheInvariant : Prop :=
  ∀ s u : State, s.Inv → step s = .next u → u.Inv

/-- The invariant holds after reset. The parameters, the registers and the FIFOs of State.reset are
the model's (log entries 3 to 5). -/
def Obligations.ResetMeetsTheInvariant : Prop := State.reset.Inv

/-- Rule R61: in State.reset the block is not ready and not refused, no transaction is open, and the
feature lock is as P_FEATURE_LOCKED_AT_POR says, whose value there is the model's (log entry 3). -/
def Obligations.ResetIsNotReady : Prop :=
  State.reset.blk.ready = false ∧ State.reset.blk.refused = false ∧ State.reset.txn = none
    ∧ State.reset.blk.featureLocked = State.reset.blk.cfg.lockedAtPor

/-- Rule R20: the parameters are configuration, so no step changes them (log entry 2). -/
def Obligations.StepKeepsTheParameters : Prop :=
  ∀ s u : State, step s = .next u → u.blk.cfg = s.blk.cfg

/-- Rule R29 (the spec's decision D42): the mark is false at power-on, set by every refusal, and
cleared by no step. -/
def Obligations.RefusedMarkIsSticky : Prop :=
  (∀ s : State, (powerOn s).blk.refused = false)
  ∧ (∀ s u : State, step s = .next u → s.agenda.head? ≠ some .powerOn →
      u.blk.refusals ≠ s.blk.refusals → u.blk.refused = true)
  ∧ (∀ s u : State, step s = .next u → s.agenda.head? ≠ some .powerOn →
      s.blk.refused = true → u.blk.refused = true)

/-- Rule R270 (the spec's decision D42): an instruction that is refused applies no update: it sets the
mark and records one code with the transaction's bytes, and nothing else changes but what the host
received. -/
def Obligations.RefusalChangesNothingElse : Prop :=
  ∀ (i : Instr) (s u : State), exec i s = .next u → u.blk.refusals ≠ s.blk.refusals →
    ∃ code, u = { s with
      response := u.response
      blk := { s.blk with
        refused := true
        refusals := s.blk.refusals ++ [⟨code, encode i⟩] } }

/-- Rule R24: no command but ACTIVATE with argument 0x53 changes the bank. -/
def Obligations.OnlyActivateChangesTheBank : Prop :=
  ∀ s u : State, step s = .next u → u.blk.bank ≠ s.blk.bank →
    s.agenda.head? = some .powerOn
    ∨ (s.agenda.head? = some (.csn true)
        ∧ ∃ t, s.txn = some t ∧ t.bit = 0 ∧ t.bytes = [0x50#8, 0x53#8])

/-- Rule R27: while locked, writes to FEATURE have no effect and reads of it return 0x00; ACTIVATE
with 0x73 unlocks; nothing but power-on locks again. -/
def Obligations.FeatureLockIsLeftForGood : Prop :=
  (∀ (s : State) (data : List Byte), s.blk.bank = .bank0 → s.blk.featureLocked = true →
      data.length ≤ 1 →
      exec (.wRegister 0x1D#5 data) s = .next (s.answer (encode (.wRegister 0x1D#5 data))))
  ∧ (∀ (s : State) (data : List Byte), s.blk.bank = .bank0 → s.blk.featureLocked = true →
      ∃ u, exec (.wRegister 0x1D#5 data) s = .next u ∧ u.blk.reg0 = s.blk.reg0)
  ∧ (∀ (b : Block) (d : Byte), b.bank = .bank0 → b.featureLocked = true →
      readByte b 0x1D#5 0 d = 0x00#8)
  ∧ (∀ s : State, s.blk.featureLocked = true →
      ∃ u, exec .activateFeature s = .next u ∧ u.blk.featureLocked = false)
  ∧ (∀ s u : State, step s = .next u → s.agenda.head? ≠ some .powerOn →
      s.blk.featureLocked = false → u.blk.featureLocked = false)

/-- Rule R42 (the spec's decision D15): a STATUS write clears exactly the flags written as 1, and only
the radio core sets a flag. -/
def Obligations.OnlyTheRadioSetsFlags : Prop :=
  (∀ (s : State) (v : Byte), s.blk.bank = .bank0 →
      ∃ u, exec (.wRegister 0x07#5 [v]) s = .next u
        ∧ ∀ k, k < 3 → u.blk.irq.getLsbD k = (s.blk.irq.getLsbD k && !v.getLsbD (4 + k)))
  ∧ (∀ (s u : State) (k : Nat), step s = .next u → s.agenda.head? ≠ some .powerOn →
      (∀ e, s.agenda.head? = some e → e.isRadio = false) →
      u.blk.irq.getLsbD k = true → s.blk.irq.getLsbD k = true)

/-- Rule R170 (the spec's decision D33): a RadioCore step writes only the flags and the FIFOs. -/
def Obligations.RadioWritesOnlyFlagsAndFifos : Prop :=
  ∀ (e : Event) (s u : State), e.isRadio = true → handle e s = .next u →
    u = { s with blk := { s.blk with irq := u.blk.irq, txf := u.blk.txf, rxf := u.blk.rxf } }

/-- Rule R175 (the spec's decision D33): RadioCore never steps while the block is not ready or a
transaction is open, nor in PowerOff and Standby. -/
def Obligations.RadioIsIdleOutsideItsModes : Prop :=
  ∀ (e : Event) (s : State), e.isRadio = true →
    (s.blk.ready = false ∨ s.txn ≠ none ∨ s.blk.mode = .powerOff ∨ s.blk.mode = .standby) →
    handle e s = .next s

/-- Rule R161 (the spec's decision D44), an inference the spec marks as its own: the mode is
PowerOff where PWR_UP is 0, else Standby where CE is low, else Receive where PRIM_RX is 1, else
Transmit. -/
def Obligations.DerivedModeFollowsBitsAndPin : Prop :=
  ∀ b : Block,
    (b.mode = .powerOff ↔ b.reg0.config.getLsbD b.cfg.layout.posPwrUp = false)
    ∧ (b.mode = .standby ↔ b.reg0.config.getLsbD b.cfg.layout.posPwrUp = true ∧ b.ce = false)
    ∧ (b.mode = .receive ↔ b.reg0.config.getLsbD b.cfg.layout.posPwrUp = true ∧ b.ce = true
        ∧ b.reg0.config.getLsbD b.cfg.layout.posPrimRx = true)
    ∧ (b.mode = .transmit ↔ b.reg0.config.getLsbD b.cfg.layout.posPwrUp = true ∧ b.ce = true
        ∧ b.reg0.config.getLsbD b.cfg.layout.posPrimRx = false)

/-- Rule R163, an inference the spec marks as its own: the derived mode changes only through a CE pin
action or a one-byte write of CONFIG made while CE is low, or at power-on. -/
def Obligations.ModeChangesOnlyByCeOrConfig : Prop :=
  ∀ s u : State, step s = .next u → u.blk.mode ≠ s.blk.mode →
    (∃ v, s.agenda.head? = some (.ce v))
    ∨ s.agenda.head? = some .powerOn
    ∨ (s.agenda.head? = some (.csn true) ∧ s.blk.ce = false ∧ s.blk.bank = .bank0
        ∧ ∃ (t : Txn) (a : BitVec 5) (v : Byte), s.txn = some t ∧ t.bit = 0 ∧ t.bytes = [0b001#3 ++ a, v]
          ∧ reg0At s.blk.cfg.layout a = some .config)

/-- Rules R164, an inference the spec marks as its own, and R166: a change of the derived mode
changes no register but CONFIG, no bank, no lock and no flag; and it changes the FIFOs only where
the mode becomes PowerOff. -/
def Obligations.ModeChangeKeepsTheRest : Prop :=
  ∀ s u : State, step s = .next u → s.agenda.head? ≠ some .powerOn → u.blk.mode ≠ s.blk.mode →
    u.blk = { s.blk with
        reg0 := { s.blk.reg0 with config := u.blk.reg0.config }
        txf := u.blk.txf, rxf := u.blk.rxf, ce := u.blk.ce, csn := u.blk.csn }
    ∧ (u.blk.mode ≠ .powerOff → u.blk.txf = s.blk.txf ∧ u.blk.rxf = s.blk.rxf)

/-- Rules R87, R164 and R170: register storage changes only at power-on or at the end of a W_REGISTER
transaction, in the selected bank. -/
def Obligations.OnlyWRegisterChangesRegisters : Prop :=
  ∀ s u : State, step s = .next u → s.agenda.head? ≠ some .powerOn →
    (u.blk.reg0 ≠ s.blk.reg0 → s.agenda.head? = some (.csn true) ∧ s.blk.bank = .bank0
      ∧ ∃ (t : Txn) (a : BitVec 5) (data : List Byte), s.txn = some t ∧ t.bit = 0 ∧ t.bytes = (0b001#3 ++ a) :: data)
    ∧ (u.blk.reg1 ≠ s.blk.reg1 → s.agenda.head? = some (.csn true) ∧ s.blk.bank = .bank1
      ∧ ∃ (t : Txn) (a : BitVec 5) (data : List Byte), s.txn = some t ∧ t.bit = 0 ∧ t.bytes = (0b001#3 ++ a) :: data)

/-- Rule R54 (the spec's decision D12): bank-1 registers are write-only. Two states that differ at
most in bank-1 storage step to states that differ at most in it, and what the host sees of both is
equal. That the bytes drawn in the two steps are equal is the model's choice, not the spec's (log entry 7:
draws are fixed unknown constants numbered by a counter). -/
def Obligations.Bank1StorageIsNeverObserved : Prop :=
  ∀ s s' u u' : State, s.hideReg1 = s'.hideReg1 → step s = .next u → step s' = .next u' →
    u.hideReg1 = u'.hideReg1 ∧ u.miso = u'.miso ∧ u.response = u'.response

/-! Register access -/

/-- Rules R210 and R211 (the spec's decisions D9, D10 and D12): R_REGISTER returns the register's bytes as
MemReadByte gives them, in each of its branches, and changes no state; it is never refused. `d` is the
byte drawn. -/
def Obligations.RRegisterReturnsTheRegister : Prop :=
  (∀ (a : BitVec 5) (data : List Byte) (s : State),
    encode (.rRegister a data) = (0b000#3 ++ a) :: data
    ∧ exec (.rRegister a data) s
        = .next { s with response := outBytes s.seen (encode (.rRegister a data)) }
    ∧ (s.seen.ready = true →
        outBytes s.seen (encode (.rRegister a data))
          = Config.freeMisoByte s.seen.draws 0 :: (List.range data.length).map
              (fun j => readByte s.seen a j (Config.freeMisoByte s.seen.draws (j + 1)))))
  ∧ ∀ (b : Block) (a : BitVec 5) (j : Nat) (d : Byte),
    (a = 0x07#5 → readByte b a j d = if j = 0 then b.status d else d)
    ∧ (a ≠ 0x07#5 → b.bank = .bank1 → readByte b a j d = d)
    ∧ (b.bank = .bank0 → reg0At b.cfg.layout a = none → readByte b a j d = d)
    ∧ (b.bank = .bank0 → a = 0x1D#5 → b.featureLocked = true →
        readByte b a j d = if j = 0 then 0x00#8 else d)
    ∧ (b.bank = .bank0 → reg0At b.cfg.layout a = some .dynpd → b.featureLocked = true →
        readByte b a j d = d)
    ∧ (∀ r, b.bank = .bank0 → reg0At b.cfg.layout a = some r → r ∈ [.auxStatus, .u08, .u09] →
        readByte b a j d = d)
    ∧ (∀ r, b.bank = .bank0 → reg0At b.cfg.layout a = some r →
        r ∉ [.status, .auxStatus, .u08, .u09] →
        (b.featureLocked = true → r ∉ [.feature, .dynpd]) →
        (j < width0 r → ∃ v m, (b.reg0.bytes r)[j]? = some v
          ∧ m = (if width0 r = 1 then (b.cfg.readMask.lookup r).getD 0x00#8 else 0x00#8)
          ∧ readByte b a j d = (v &&& ~~~m) ||| (d &&& m))
        ∧ (width0 r ≤ j → readByte b a j d = d))

/-- Rules R9 and R40 (the spec's decision D52): the bits of STATUS, wherever LAYOUT places the pipe
field and TX_FULL in the bits that rule R9 leaves free, without an overlap. -/
def Obligations.StatusByteShowsItsFields : Prop :=
  ∀ (b : Block) (d : Byte) (k : Nat), k < 8 →
    b.cfg.layout.posRxPNo.val + 3 ≤ 4 → b.cfg.layout.posTxFull.val < 4 →
    (b.cfg.layout.posTxFull.val < b.cfg.layout.posRxPNo.val
      ∨ b.cfg.layout.posRxPNo.val + 3 ≤ b.cfg.layout.posTxFull.val) →
    (b.status d).getLsbD k =
      if k = 7 then decide (b.bank = .bank1)
      else if 4 ≤ k then b.irq.getLsbD (k - 4)
      else if b.cfg.layout.posRxPNo.val ≤ k ∧ k < b.cfg.layout.posRxPNo.val + 3 then
        (match b.rxf with
          | [] => 0b111#3
          | e :: _ => BitVec.ofNat 3 e.pipe.val).getLsbD (k - b.cfg.layout.posRxPNo.val)
      else if k = b.cfg.layout.posTxFull.val then decide (b.txf.length = b.cfg.txDepth)
      else d.getLsbD k

/-- Rule R215, an inference the spec marks as its own: a status query returns STATUS() as its first
data byte in either bank. -/
def Obligations.StatusIsReadableInBothBanks : Prop :=
  ∀ (s : State) (x : Byte), s.seen.ready = true →
    exec (.rRegister 0x07#5 [x]) s = .next { s with response :=
      [Config.freeMisoByte s.seen.draws 0, s.seen.status (Config.freeMisoByte s.seen.draws 1)] }

/-- Rule R192, an inference the spec marks as its own: the STATUS bytes before and after a bank toggle
differ in bit 7 alone. -/
def Obligations.ToggleFlipsStatusBit7Alone : Prop :=
  ∀ (b : Block) (d d' : Byte), layoutOk b.cfg.layout = true →
    b.status d ^^^ (toggleBank b).status d' = 0x80#8

/-- Rules R51 and R211, and R224, an inference the spec marks as its own: in bank 0, with a clear mask, a
stored register reads back the bytes that were just written, FEATURE and DYNPD where the lock is open and
CONFIG where CE is low. -/
def Obligations.WrittenBytesReadBack : Prop :=
  ∀ (s : State) (a : BitVec 5) (r : Reg0) (data : List Byte) (j : Nat) (d v : Byte),
    s.blk.bank = .bank0 → (r = .feature ∨ r = .dynpd → s.blk.featureLocked = false) →
    (r = .config → s.blk.ce = false) →
    reg0At s.blk.cfg.layout a = some r → r ∉ [.status, .auxStatus, .u08, .u09] →
    readMaskOf s.blk.cfg r = 0x00#8 → data.length ≤ width0 r → data[j]? = some v →
    ∃ u, exec (.wRegister a data) s = .next u ∧ readByte u.blk a j d = v

/-- Rules R213, R218 and R223 (the spec's decisions D6 to D8): a write to a plain bank-0 register. No
data byte has no effect; too many are refused with RF04; otherwise the first bytes are the data, the
rest are draws, and nothing else changes. -/
def Obligations.PlainRegisterWriteStoresTheData : Prop :=
  ∀ (s : State) (a : BitVec 5) (r : Reg0) (data : List Byte),
    s.blk.bank = .bank0 → reg0At s.blk.cfg.layout a = some r → r ∈ plainReg0 →
    (data = [] → exec (.wRegister a data) s = .next (s.answer (encode (.wRegister a data))))
    ∧ (width0 r < data.length → exec (.wRegister a data) s
        = .next (s.refuse .rf04TooManyBytes (encode (.wRegister a data))))
    ∧ (1 ≤ data.length ∧ data.length ≤ width0 r →
        ∃ r0 : Bank0, exec (.wRegister a data) s
            = .next { s.answer (encode (.wRegister a data)) with blk := { s.blk with reg0 := r0 } }
          ∧ (r0.bytes r).length = width0 r
          ∧ (∀ (j : Nat) (v : Byte), data[j]? = some v → (r0.bytes r)[j]? = some v)
          ∧ (∀ j, data.length ≤ j → j < width0 r →
              (r0.bytes r)[j]? = some (Config.freeRegByte s.blk.draws j))
          ∧ ∀ r', r' ≠ r → r0.bytes r' = s.blk.reg0.bytes r')

/-- Rule R214 (the spec's decisions D11 and D13): writes in bank 1. Addresses above 0x0E are refused
with RF03; the others reach bank-1 storage alone, address 0x07 too. -/
def Obligations.Bank1WriteReachesBank1Storage : Prop :=
  ∀ (s : State) (a : BitVec 5) (data : List Byte), s.blk.bank = .bank1 →
    (0x0E < a.toNat → exec (.wRegister a data) s
        = .next (s.refuse .rf03UnmappedWrite (encode (.wRegister a data))))
    ∧ (a.toNat ≤ 0x0E → ∃ r, reg1At a = some r ∧ (∀ a', reg1At a' = some r → a' = a)
        ∧ width1 r = (if a = 0x0E#5 then 11 else 4)
        ∧ (data = [] → exec (.wRegister a data) s = .next (s.answer (encode (.wRegister a data))))
        ∧ (width1 r < data.length → exec (.wRegister a data) s
            = .next (s.refuse .rf04TooManyBytes (encode (.wRegister a data))))
        ∧ (1 ≤ data.length ∧ data.length ≤ width1 r →
            ∃ r1 : Bank1, exec (.wRegister a data) s
                = .next { s.answer (encode (.wRegister a data)) with
                    blk := { s.blk with reg1 := r1 } }
              ∧ (r1.bytes r).length = width1 r
              ∧ (∀ (j : Nat) (v : Byte), data[j]? = some v → (r1.bytes r)[j]? = some v)
              ∧ (∀ j, data.length ≤ j → j < width1 r →
                  (r1.bytes r)[j]? = some (Config.freeRegByte s.blk.draws j))
              ∧ ∀ r', r' ≠ r → r1.bytes r' = s.blk.reg1.bytes r'))

/-- Rules R54 and R219 (the spec's decisions D12 and D14): an unmapped address reads as draws, and a
write to it is refused with RF03, in both banks; in bank 1 every address but that of STATUS reads as
draws. -/
def Obligations.UnmappedAddressesAreDrawnAndRefused : Prop :=
  (∀ (s : State) (a : BitVec 5) (data : List Byte),
      (s.blk.bank = .bank0 ∧ reg0At s.blk.cfg.layout a = none)
        ∨ (s.blk.bank = .bank1 ∧ 0x0F ≤ a.toNat) →
      exec (.wRegister a data) s
        = .next (s.refuse .rf03UnmappedWrite (encode (.wRegister a data))))
  ∧ (∀ (b : Block) (a : BitVec 5) (j : Nat) (d : Byte),
      (b.bank = .bank0 ∧ reg0At b.cfg.layout a = none) ∨ (b.bank = .bank1 ∧ a ≠ 0x07#5) →
      readByte b a j d = d)

/-- Rule R216 (the spec's decision D15): a STATUS write clears the flags written as 1 and changes
nothing else. -/
def Obligations.StatusWriteClearsFlags : Prop :=
  ∀ (s : State) (data : List Byte), s.blk.bank = .bank0 →
    (data = [] → exec (.wRegister 0x07#5 data) s
        = .next (s.answer (encode (.wRegister 0x07#5 data))))
    ∧ (1 < data.length → exec (.wRegister 0x07#5 data) s
        = .next (s.refuse .rf04TooManyBytes (encode (.wRegister 0x07#5 data))))
    ∧ (∀ v, data = [v] → exec (.wRegister 0x07#5 data) s
        = .next { s.answer (encode (.wRegister 0x07#5 data)) with
            blk := { s.blk with irq := s.blk.irq &&& ~~~(v.extractLsb' 4 3) } })

/-- Rule R217 (the spec's decisions D30 and D31): a CONFIG write. With CE high, one that changes
PWR_UP or PRIM_RX is refused with RF12; otherwise the byte is stored, and both FIFOs are drawn where
PWR_UP falls. -/
def Obligations.ConfigWriteChangesTheMode : Prop :=
  ∀ (s : State) (a : BitVec 5) (data : List Byte),
    s.blk.bank = .bank0 → reg0At s.blk.cfg.layout a = some .config →
    (data = [] → exec (.wRegister a data) s = .next (s.answer (encode (.wRegister a data))))
    ∧ (1 < data.length → exec (.wRegister a data) s
        = .next (s.refuse .rf04TooManyBytes (encode (.wRegister a data))))
    ∧ (∀ v, data = [v] →
        (let l := s.blk.cfg.layout
         let old := s.blk.reg0.config
         let changes := v.getLsbD l.posPwrUp ≠ old.getLsbD l.posPwrUp
           ∨ v.getLsbD l.posPrimRx ≠ old.getLsbD l.posPrimRx
         let fall := old.getLsbD l.posPwrUp = true ∧ v.getLsbD l.posPwrUp = false
         (s.blk.ce = true ∧ changes → exec (.wRegister a data) s
            = .next (s.refuse .rf12ModeChangeCeHigh (encode (.wRegister a data))))
         ∧ (¬(s.blk.ce = true ∧ changes) → ¬fall → exec (.wRegister a data) s
            = .next { s.answer (encode (.wRegister a data)) with
                blk := { s.blk with reg0 := { s.blk.reg0 with config := v } } })
         ∧ (¬(s.blk.ce = true ∧ changes) → fall → exec (.wRegister a data) s
            = .next { s.answer (encode (.wRegister a data)) with
                blk := { s.blk with
                  reg0 := { s.blk.reg0 with config := v }
                  txf := s.blk.drawnTxf
                  rxf := s.blk.drawnRxf } })))

/-- Rule R165 (the spec's decision D31): the FIFOs drawn at power-off are well-formed. -/
def Obligations.PowerOffFifosAreWellFormed : Prop :=
  ∀ (s : State) (a : BitVec 5) (v : Byte),
    s.blk.bank = .bank0 → reg0At s.blk.cfg.layout a = some .config → s.blk.ce = false →
    s.blk.reg0.config.getLsbD s.blk.cfg.layout.posPwrUp = true →
    v.getLsbD s.blk.cfg.layout.posPwrUp = false →
    ∃ u, exec (.wRegister a [v]) s = .next u ∧ u.blk.mode = .powerOff
      ∧ txFifoOk s.blk.cfg.txDepth u.blk.txf = true
      ∧ rxFifoOk s.blk.cfg.rxDepth u.blk.rxf = true

/-- Rule R220 (the spec's decision D38): an AUX_STATUS write leaves each FIFO as it is or empties
it, as drawn. -/
def Obligations.AuxStatusWriteMayEmptyFifos : Prop :=
  ∀ (s : State) (a : BitVec 5) (data : List Byte),
    s.blk.bank = .bank0 → reg0At s.blk.cfg.layout a = some .auxStatus →
    (data = [] → exec (.wRegister a data) s = .next (s.answer (encode (.wRegister a data))))
    ∧ (1 < data.length → exec (.wRegister a data) s
        = .next (s.refuse .rf04TooManyBytes (encode (.wRegister a data))))
    ∧ (data.length = 1 → ∃ txf rxf, exec (.wRegister a data) s
          = .next { s.answer (encode (.wRegister a data)) with
              blk := { s.blk with txf := txf, rxf := rxf } }
        ∧ txf = (if Config.freeAuxEmptiesTx s.blk.draws then [] else s.blk.txf)
        ∧ rxf = (if Config.freeAuxEmptiesRx s.blk.draws then [] else s.blk.rxf))

/-- Rule R221 (the spec's decisions D7 and D22): FEATURE. A locked write is ignored and a locked read
returns 0x00; unlocked, the byte is stored and read back. -/
def Obligations.FeatureWriteFollowsTheLock : Prop :=
  (∀ (s : State) (data : List Byte), s.blk.bank = .bank0 →
    (data = [] → exec (.wRegister 0x1D#5 data) s
        = .next (s.answer (encode (.wRegister 0x1D#5 data))))
    ∧ (1 < data.length → exec (.wRegister 0x1D#5 data) s
        = .next (s.refuse .rf04TooManyBytes (encode (.wRegister 0x1D#5 data))))
    ∧ (∀ v, data = [v] →
        (s.blk.featureLocked = true → exec (.wRegister 0x1D#5 data) s
            = .next (s.answer (encode (.wRegister 0x1D#5 data))))
        ∧ (s.blk.featureLocked = false → exec (.wRegister 0x1D#5 data) s
            = .next { s.answer (encode (.wRegister 0x1D#5 data)) with
                blk := { s.blk with reg0 := { s.blk.reg0 with feature := v } } })))
  ∧ (∀ (b : Block) (d : Byte), b.bank = .bank0 →
      (b.featureLocked = true → readByte b 0x1D#5 0 d = 0x00#8)
      ∧ (b.featureLocked = false → readMaskOf b.cfg .feature = 0x00#8 →
          readByte b 0x1D#5 0 d = b.reg0.feature))

/-- Rule R222 (the spec's decision D22): DYNPD. While locked a write is refused with RF08 before its
length is checked, and a read is a draw; unlocked, the byte is stored. -/
def Obligations.DynpdWriteFollowsTheLock : Prop :=
  (∀ (s : State) (a : BitVec 5) (data : List Byte),
    s.blk.bank = .bank0 → reg0At s.blk.cfg.layout a = some .dynpd →
    (s.blk.featureLocked = true → exec (.wRegister a data) s
        = .next (s.refuse .rf08FeatureLocked (encode (.wRegister a data))))
    ∧ (s.blk.featureLocked = false →
        (data = [] → exec (.wRegister a data) s = .next (s.answer (encode (.wRegister a data))))
        ∧ (1 < data.length → exec (.wRegister a data) s
            = .next (s.refuse .rf04TooManyBytes (encode (.wRegister a data))))
        ∧ (∀ v, data = [v] → exec (.wRegister a data) s
            = .next { s.answer (encode (.wRegister a data)) with
                blk := { s.blk with reg0 := { s.blk.reg0 with dynpd := v } } })))
  ∧ (∀ (b : Block) (a : BitVec 5) (j : Nat) (d : Byte), b.bank = .bank0 → b.featureLocked = true →
      reg0At b.cfg.layout a = some .dynpd → readByte b a j d = d)

/-! Activation -/

/-- Rule R191: ACTIVATE 0x53 toggles the bank and changes nothing else, in every mode; two issues
restore it. -/
def Obligations.ActivateBankTogglesTheBank : Prop :=
  encode .activateBank = [0x50#8, 0x53#8]
  ∧ (∀ s : State, s.ShiftsOutDraws [0x50#8, 0x53#8]
      ∧ (s.blk.bank = .bank0 → exec .activateBank s
        = .next { s.answer [0x50#8, 0x53#8] with blk := { s.blk with bank := .bank1 } })
      ∧ (s.blk.bank = .bank1 → exec .activateBank s
        = .next { s.answer [0x50#8, 0x53#8] with blk := { s.blk with bank := .bank0 } }))
  ∧ (∀ s u v : State, exec .activateBank s = .next u → exec .activateBank u = .next v →
      v.blk = s.blk)

/-- Rule R193 (the spec's decision D21): ACTIVATE 0x73 unlocks the feature register and changes
nothing else; with the register unlocked it is refused with RF07. -/
def Obligations.ActivateFeatureUnlocks : Prop :=
  encode .activateFeature = [0x50#8, 0x73#8]
  ∧ ∀ s : State, s.ShiftsOutDraws [0x50#8, 0x73#8]
      ∧ (s.blk.featureLocked = true → exec .activateFeature s
        = .next { s.answer [0x50#8, 0x73#8] with blk := { s.blk with featureLocked := false } })
      ∧ (s.blk.featureLocked = false → exec .activateFeature s
        = .next (s.refuse .rf07AlreadyUnlocked [0x50#8, 0x73#8]))

/-! Payloads and FIFOs -/

/-- Rules R240, R241 and R276: W_TX_PAYLOAD pushes the payload without an acknowledge request and
changes nothing else; its refusals, in their order; and the bytes out are draws. -/
def Obligations.WTxPayloadPushesTheEntry : Prop :=
  ∀ (s : State) (data : List Byte),
    encode (.wTxPayload data) = 0xA0#8 :: data ∧ s.ShiftsOutDraws (0xA0#8 :: data)
    ∧ (s.blk.bank = .bank1 →
        exec (.wTxPayload data) s = .next (s.refuse .rf11WrongBank (0xA0#8 :: data)))
    ∧ (s.blk.bank = .bank0 → data.length = 0 ∨ 32 < data.length →
        exec (.wTxPayload data) s = .next (s.refuse .rf10PayloadLength (0xA0#8 :: data)))
    ∧ (s.blk.bank = .bank0 → 1 ≤ data.length → data.length ≤ 32 →
        s.blk.txf.length = s.blk.cfg.txDepth →
        exec (.wTxPayload data) s = .next (s.refuse .rf09TxFifoFull (0xA0#8 :: data)))
    ∧ (s.blk.bank = .bank0 → 1 ≤ data.length → data.length ≤ 32 →
        s.blk.txf.length ≠ s.blk.cfg.txDepth →
        exec (.wTxPayload data) s = .next { s.answer (0xA0#8 :: data) with
          blk := { s.blk with txf := s.blk.txf ++ [{ data := data, ack := none }] } })

/-- Rules R241, R242 and R276: W_TX_PAYLOAD_ACK pushes the payload with an acknowledge request on its
pipe and changes nothing else; its refusals, in their order; pipe fields 6 and 7 are reserved; and the
bytes out are draws. -/
def Obligations.WTxPayloadAckPushesTheEntry : Prop :=
  (∀ (s : State) (p : Pipe) (data bytes : List Byte), bytes = BitVec.ofNat 8 (0xA8 + p.val) :: data →
    encode (.wTxPayloadAck (BitVec.ofNat 3 p.val) data) = bytes ∧ s.ShiftsOutDraws bytes
    ∧ (s.blk.bank = .bank1 → exec (.wTxPayloadAck (BitVec.ofNat 3 p.val) data) s
        = .next (s.refuse .rf11WrongBank bytes))
    ∧ (s.blk.bank = .bank0 → s.blk.featureLocked = true →
        exec (.wTxPayloadAck (BitVec.ofNat 3 p.val) data) s
          = .next (s.refuse .rf08FeatureLocked bytes))
    ∧ (s.blk.bank = .bank0 → s.blk.featureLocked = false → data.length = 0 ∨ 32 < data.length →
        exec (.wTxPayloadAck (BitVec.ofNat 3 p.val) data) s
          = .next (s.refuse .rf10PayloadLength bytes))
    ∧ (s.blk.bank = .bank0 → s.blk.featureLocked = false → 1 ≤ data.length → data.length ≤ 32 →
        s.blk.txf.length = s.blk.cfg.txDepth →
        exec (.wTxPayloadAck (BitVec.ofNat 3 p.val) data) s
          = .next (s.refuse .rf09TxFifoFull bytes))
    ∧ (s.blk.bank = .bank0 → s.blk.featureLocked = false → 1 ≤ data.length → data.length ≤ 32 →
        s.blk.txf.length ≠ s.blk.cfg.txDepth →
        exec (.wTxPayloadAck (BitVec.ofNat 3 p.val) data) s = .next { s.answer bytes with
          blk := { s.blk with txf := s.blk.txf ++ [{ data := data, ack := some p }] } }))
  ∧ (∀ (s : State) (p : BitVec 3) (data : List Byte), 6 ≤ p.toNat →
      exec (.wTxPayloadAck p data) s
        = .next (s.refuse .rf02ReservedCommand (encode (.wTxPayloadAck p data))))

/-- Rule R244 (the spec's decision D28): R_RX_PL_WID returns the head entry's byte count in data
byte 1, and a draw where the FIFO is empty; it changes no state. -/
def Obligations.RRxPlWidReturnsTheByteCount : Prop :=
  ∀ (s : State) (data : List Byte),
    encode (.rRxPlWid data) = 0x60#8 :: data
    ∧ (s.blk.bank = .bank0 → s.blk.featureLocked = false →
        exec (.rRxPlWid data) s = .next (s.answer (0x60#8 :: data)))
    ∧ (s.blk.bank = .bank1 → exec (.rRxPlWid data) s
        = .next (s.refuse .rf11WrongBank (0x60#8 :: data)))
    ∧ (s.blk.bank = .bank0 → s.blk.featureLocked = true → exec (.rRxPlWid data) s
        = .next (s.refuse .rf08FeatureLocked (0x60#8 :: data)))
    ∧ (∀ j, s.seen.ready = true → j < data.length →
        (outBytes s.seen (0x60#8 :: data))[j + 1]? = some
          (match s.seen.rxf with
            | [] => Config.freeMisoByte s.seen.draws (j + 1)
            | e :: _ =>
              if j = 0 ∧ s.seen.bank = .bank0 ∧ s.seen.featureLocked = false then
                BitVec.ofNat 8 e.data.length
              else Config.freeMisoByte s.seen.draws (j + 1)))

/-- Rules R246 and R247 (the spec's decision D27): R_RX_PAYLOAD returns the head entry's bytes and
consumes them, byte by byte or whole as P_RXPOP says; the next entry is not touched. -/
def Obligations.RRxPayloadConsumesTheHead : Prop :=
  ∀ (s : State) (data : List Byte),
    encode (.rRxPayload data) = 0x61#8 :: data
    ∧ (s.blk.bank = .bank1 → exec (.rRxPayload data) s
        = .next (s.refuse .rf11WrongBank (0x61#8 :: data)))
    ∧ (s.blk.bank = .bank0 → s.blk.rxf = [] ∨ data = [] →
        exec (.rRxPayload data) s = .next (s.answer (0x61#8 :: data)))
    ∧ (∀ e rest, s.blk.bank = .bank0 → s.blk.rxf = e :: rest → data ≠ [] →
        (s.blk.cfg.rxPop = .perByte → data.length < e.data.length →
          exec (.rRxPayload data) s = .next { s.answer (0x61#8 :: data) with
            blk := { s.blk with rxf := { e with data := e.data.drop data.length } :: rest } })
        ∧ (s.blk.cfg.rxPop = .wholePayloadAtEnd ∨ e.data.length ≤ data.length →
          exec (.rRxPayload data) s = .next { s.answer (0x61#8 :: data) with
            blk := { s.blk with rxf := rest } }))
    ∧ (∀ j, s.seen.ready = true → j < data.length →
        (outBytes s.seen (0x61#8 :: data))[j + 1]? = some
          (match s.seen.rxf with
            | [] => Config.freeMisoByte s.seen.draws (j + 1)
            | e :: _ =>
              if s.seen.bank = .bank0 then
                (e.data[j]?).getD (Config.freeMisoByte s.seen.draws (j + 1))
              else Config.freeMisoByte s.seen.draws (j + 1)))

/-- Rule R250 (the spec's decision D29): FLUSH_TX empties the TX FIFO, whatever its data bytes, and
changes nothing else; the bytes out are draws. -/
def Obligations.FlushTxEmptiesTheTxFifo : Prop :=
  ∀ (s : State) (data : List Byte),
    encode (.flushTx data) = 0xE1#8 :: data ∧ s.ShiftsOutDraws (0xE1#8 :: data)
    ∧ (s.blk.bank = .bank0 → exec (.flushTx data) s
        = .next { s.answer (0xE1#8 :: data) with blk := { s.blk with txf := [] } })
    ∧ (s.blk.bank = .bank1 → exec (.flushTx data) s
        = .next (s.refuse .rf11WrongBank (0xE1#8 :: data)))

/-- Rule R252 (the spec's decision D29): FLUSH_RX empties the RX FIFO, whatever its data bytes, and
changes nothing else; the bytes out are draws. -/
def Obligations.FlushRxEmptiesTheRxFifo : Prop :=
  ∀ (s : State) (data : List Byte),
    encode (.flushRx data) = 0xE2#8 :: data ∧ s.ShiftsOutDraws (0xE2#8 :: data)
    ∧ (s.blk.bank = .bank0 → exec (.flushRx data) s
        = .next { s.answer (0xE2#8 :: data) with blk := { s.blk with rxf := [] } })
    ∧ (s.blk.bank = .bank1 → exec (.flushRx data) s
        = .next (s.refuse .rf11WrongBank (0xE2#8 :: data)))

/-- Rule R254 (the spec's decision D24): the six payload and flush commands are refused with RF11 in
bank 1, before any other check of theirs. -/
def Obligations.PayloadCommandsAreRefusedInBank1 : Prop :=
  ∀ (s : State) (i : Instr), i.wf = true → s.blk.bank = .bank1 →
    i.command ∈ [.rRxPlWid, .rRxPayload, .wTxPayload, .flushTx, .flushRx]
      ∨ (∃ p, i.command = .wTxPayloadAck p) →
    exec i s = .next (s.refuse .rf11WrongBank (encode i))

/-- Rule R255 (the spec's decision D22): in bank 0, R_RX_PL_WID, W_TX_PAYLOAD_ACK and a write of
DYNPD are refused with RF08 while the feature register is locked. -/
def Obligations.LockGatedCommandsAreRefused : Prop :=
  ∀ (s : State) (p : Pipe) (a : BitVec 5) (data : List Byte),
    s.blk.bank = .bank0 → s.blk.featureLocked = true →
    exec (.rRxPlWid data) s = .next (s.refuse .rf08FeatureLocked (encode (.rRxPlWid data)))
    ∧ exec (.wTxPayloadAck (BitVec.ofNat 3 p.val) data) s
        = .next (s.refuse .rf08FeatureLocked
            (encode (.wTxPayloadAck (BitVec.ofNat 3 p.val) data)))
    ∧ (reg0At s.blk.cfg.layout a = some .dynpd → exec (.wRegister a data) s
        = .next (s.refuse .rf08FeatureLocked (encode (.wRegister a data))))

/-- Rules R135, R190, R212, R240, R242, R250 and R252: every byte out of a write, an activation, a
payload write or a flush is a draw. -/
def Obligations.WriteCommandsShiftOutDraws : Prop :=
  ∀ (s u : State) (i : Instr), i.wf = true →
    (∀ a, i.command ≠ .rRegister a) → i.command ≠ .rRxPlWid → i.command ≠ .rRxPayload →
    exec i s = .next u →
    s.ShiftsOutDraws (encode i) ∧ u.response = outBytes s.seen (encode i)

/-! The other inputs -/

/-- Rules R141 and R160 (the spec's decision D47): the CE pin takes its level at once, also inside a
transaction, and nothing else changes. -/
def Obligations.CePinTakesItsLevel : Prop :=
  ∀ (s : State) (v : Bool) (rest : List Event), s.agenda = .ce v :: rest →
    step s = .next { s with agenda := rest, blk := { s.blk with ce := v } }

/-- Rule R171 (the spec's decisions D33 and D51): where its guard holds, RX_DELIVER appends the
payload with its pipe to the RX FIFO and sets the RX_DR flag. Where it does not, the input is taken and
nothing changes: rule R171 says so of a full RX FIFO, and for every other guard it is the model's choice
(log entry 11). `w` is RX_PW_Pp; that bit p of DYNPD is pipe p's, as the rule reads it, is PRESUMED (log
entry 29). -/
def Obligations.RxDeliverPushesAdmittedPayloads : Prop :=
  ∀ (s : State) (p : Pipe) (d : List Byte) (rest : List Event) (w : Byte),
    s.agenda = .rxDeliver p d :: rest →
    [s.blk.reg0.rxPwP0, s.blk.reg0.rxPwP1, s.blk.reg0.rxPwP2, s.blk.reg0.rxPwP3, s.blk.reg0.rxPwP4,
      s.blk.reg0.rxPwP5][p.val]? = some w →
    (let dyn := s.blk.reg0.dynpd.getLsbD p.val = true
        ∧ s.blk.reg0.feature.getLsbD s.blk.cfg.layout.posEnDpl = true
        ∧ s.blk.featureLocked = false
     let guard := s.blk.ready = true ∧ s.txn = none ∧ s.blk.mode = .receive
        ∧ s.blk.reg0.enRxaddr.getLsbD p.val = true ∧ 1 ≤ d.length ∧ d.length ≤ 32
        ∧ s.blk.rxf.length < s.blk.cfg.rxDepth
        ∧ (¬dyn → 1 ≤ w.toNat → w.toNat ≤ 32 → d.length = w.toNat)
     (guard → ∃ irq : BitVec 3,
        step s = .next { s with
          agenda := rest
          blk := { s.blk with rxf := s.blk.rxf ++ [{ pipe := p, data := d }], irq := irq } }
        ∧ ∀ k, k < 3 → irq.getLsbD k =
            if k = s.blk.cfg.irqBits.rxDr.val then true else s.blk.irq.getLsbD k)
     ∧ (¬guard → step s = .next { s with agenda := rest }))

/-- Rules R172 and R173 (the spec's decisions D33 and D34): where their guard holds, TX_SENT
removes the head TX entry, TX_MAXRT leaves the FIFO, and each sets its flag. Where it does not, the input
is taken and nothing changes: that is the model's choice (log entry 11), which neither rule states. -/
def Obligations.TransmitStepsSetTheirFlags : Prop :=
  ∀ (s : State) (rest : List Event),
    (s.agenda = .txSent :: rest →
      (∀ e tail, s.blk.ready = true → s.txn = none → s.blk.mode = .transmit → s.blk.txf = e :: tail →
        ∃ irq : BitVec 3,
          step s = .next { s with agenda := rest, blk := { s.blk with txf := tail, irq := irq } }
          ∧ ∀ k, k < 3 → irq.getLsbD k =
              if k = s.blk.cfg.irqBits.txDs.val then true else s.blk.irq.getLsbD k)
      ∧ (¬(s.blk.ready = true ∧ s.txn = none ∧ s.blk.mode = .transmit ∧ s.blk.txf ≠ []) →
        step s = .next { s with agenda := rest }))
    ∧ (s.agenda = .txMaxRt :: rest →
      (s.blk.ready = true → s.txn = none → s.blk.mode = .transmit → s.blk.txf ≠ [] →
        ∃ irq : BitVec 3,
          step s = .next { s with agenda := rest, blk := { s.blk with irq := irq } }
          ∧ ∀ k, k < 3 → irq.getLsbD k =
              if k = s.blk.cfg.irqBits.maxRt.val then true else s.blk.irq.getLsbD k)
      ∧ (¬(s.blk.ready = true ∧ s.txn = none ∧ s.blk.mode = .transmit ∧ s.blk.txf ≠ []) →
        step s = .next { s with agenda := rest }))

/-- Rule R291 (the spec's decision D36): the Boot agent's step makes the block ready and changes nothing
else, with the guard "ready = false and txn = none" and the effect "ready <- true". Where the guard does
not hold, the input is taken and nothing changes: that is the model's choice (log entry 11), which the
rule does not state. -/
def Obligations.BootDoneMakesTheBlockReady : Prop :=
  ∀ (s : State) (rest : List Event), s.agenda = .bootDone :: rest →
    (s.blk.ready = false ∧ s.txn = none →
      step s = .next { s with agenda := rest, blk := { s.blk with ready := true } })
    ∧ (¬(s.blk.ready = false ∧ s.txn = none) → step s = .next { s with agenda := rest })

/-- Rules R61 and R290 (the spec's decision D37): power-on leaves the block not ready, with no refusal
recorded, no transaction open, the lock as P_FEATURE_LOCKED_AT_POR says and well-formed FIFOs; the
pins are as the host drives them. -/
def Obligations.PowerOnLeavesTheBlockNotReady : Prop :=
  ∀ (s : State) (rest : List Event), s.agenda = .powerOn :: rest →
    ∃ u, step s = .next u ∧ u.agenda = rest ∧ u.blk.ready = false ∧ u.blk.refused = false
      ∧ u.txn = none ∧ u.blk.featureLocked = s.blk.cfg.lockedAtPor
      ∧ txFifoOk s.blk.cfg.txDepth u.blk.txf = true
      ∧ rxFifoOk s.blk.cfg.rxDepth u.blk.rxf = true
      ∧ u.blk.ce = s.blk.ce ∧ u.blk.csn = s.blk.csn ∧ u.blk.cfg = s.blk.cfg
end

