-- ==== Sys2Proof/Laws/State.lean ====
section
/-! SUPPORT. What each update of the state leaves in each field. -/

namespace Sys2Proof.Machine

@[simp] theorem answer_blk (bytes : List Byte) (s : State) : (s.answer bytes).blk = s.blk := rfl
@[simp] theorem answer_txn (bytes : List Byte) (s : State) : (s.answer bytes).txn = s.txn := rfl
@[simp] theorem answer_sck (bytes : List Byte) (s : State) : (s.answer bytes).sck = s.sck := rfl
@[simp] theorem answer_mosi (bytes : List Byte) (s : State) : (s.answer bytes).mosi = s.mosi := rfl
@[simp] theorem answer_miso (bytes : List Byte) (s : State) : (s.answer bytes).miso = s.miso := rfl
@[simp] theorem answer_insr (bytes : List Byte) (s : State) : (s.answer bytes).insr = s.insr := rfl
@[simp] theorem answer_outsr (bytes : List Byte) (s : State) : (s.answer bytes).outsr = s.outsr := rfl
@[simp] theorem answer_agenda (bytes : List Byte) (s : State) :
    (s.answer bytes).agenda = s.agenda := rfl
@[simp] theorem answer_response (bytes : List Byte) (s : State) :
    (s.answer bytes).response = outBytes s.seen bytes := rfl

@[simp] theorem markRefused_cfg (b : Block) (c : RefusalCode) (bytes : List Byte) :
    (b.markRefused c bytes).cfg = b.cfg := rfl
@[simp] theorem markRefused_ready (b : Block) (c : RefusalCode) (bytes : List Byte) :
    (b.markRefused c bytes).ready = b.ready := rfl
@[simp] theorem markRefused_bank (b : Block) (c : RefusalCode) (bytes : List Byte) :
    (b.markRefused c bytes).bank = b.bank := rfl
@[simp] theorem markRefused_featureLocked (b : Block) (c : RefusalCode) (bytes : List Byte) :
    (b.markRefused c bytes).featureLocked = b.featureLocked := rfl
@[simp] theorem markRefused_reg0 (b : Block) (c : RefusalCode) (bytes : List Byte) :
    (b.markRefused c bytes).reg0 = b.reg0 := rfl
@[simp] theorem markRefused_reg1 (b : Block) (c : RefusalCode) (bytes : List Byte) :
    (b.markRefused c bytes).reg1 = b.reg1 := rfl
@[simp] theorem markRefused_irq (b : Block) (c : RefusalCode) (bytes : List Byte) :
    (b.markRefused c bytes).irq = b.irq := rfl
@[simp] theorem markRefused_txf (b : Block) (c : RefusalCode) (bytes : List Byte) :
    (b.markRefused c bytes).txf = b.txf := rfl
@[simp] theorem markRefused_rxf (b : Block) (c : RefusalCode) (bytes : List Byte) :
    (b.markRefused c bytes).rxf = b.rxf := rfl
@[simp] theorem markRefused_ce (b : Block) (c : RefusalCode) (bytes : List Byte) :
    (b.markRefused c bytes).ce = b.ce := rfl
@[simp] theorem markRefused_csn (b : Block) (c : RefusalCode) (bytes : List Byte) :
    (b.markRefused c bytes).csn = b.csn := rfl
@[simp] theorem markRefused_refused (b : Block) (c : RefusalCode) (bytes : List Byte) :
    (b.markRefused c bytes).refused = true := rfl
@[simp] theorem markRefused_refusals (b : Block) (c : RefusalCode) (bytes : List Byte) :
    (b.markRefused c bytes).refusals = b.refusals ++ [{ code := c, bytes := bytes }] := rfl
@[simp] theorem markRefused_draws (b : Block) (c : RefusalCode) (bytes : List Byte) :
    (b.markRefused c bytes).draws = b.draws := rfl

@[simp] theorem refuse_blk (c : RefusalCode) (bytes : List Byte) (s : State) :
    (s.refuse c bytes).blk = s.blk.markRefused c bytes := rfl
@[simp] theorem refuse_txn (c : RefusalCode) (bytes : List Byte) (s : State) :
    (s.refuse c bytes).txn = s.txn := rfl
@[simp] theorem refuse_sck (c : RefusalCode) (bytes : List Byte) (s : State) :
    (s.refuse c bytes).sck = s.sck := rfl
@[simp] theorem refuse_mosi (c : RefusalCode) (bytes : List Byte) (s : State) :
    (s.refuse c bytes).mosi = s.mosi := rfl
@[simp] theorem refuse_miso (c : RefusalCode) (bytes : List Byte) (s : State) :
    (s.refuse c bytes).miso = s.miso := rfl
@[simp] theorem refuse_insr (c : RefusalCode) (bytes : List Byte) (s : State) :
    (s.refuse c bytes).insr = s.insr := rfl
@[simp] theorem refuse_outsr (c : RefusalCode) (bytes : List Byte) (s : State) :
    (s.refuse c bytes).outsr = s.outsr := rfl
@[simp] theorem refuse_agenda (c : RefusalCode) (bytes : List Byte) (s : State) :
    (s.refuse c bytes).agenda = s.agenda := rfl
@[simp] theorem refuse_response (c : RefusalCode) (bytes : List Byte) (s : State) :
    (s.refuse c bytes).response = outBytes s.seen bytes := rfl

@[simp] theorem closeFrame_blk (s : State) : s.closeFrame.blk = s.blk := rfl
@[simp] theorem closeFrame_txn (s : State) : s.closeFrame.txn = none := rfl
@[simp] theorem closeFrame_sck (s : State) : s.closeFrame.sck = s.sck := rfl
@[simp] theorem closeFrame_mosi (s : State) : s.closeFrame.mosi = s.mosi := rfl
@[simp] theorem closeFrame_miso (s : State) : s.closeFrame.miso = none := rfl
@[simp] theorem closeFrame_insr (s : State) : s.closeFrame.insr = s.insr := rfl
@[simp] theorem closeFrame_outsr (s : State) : s.closeFrame.outsr = s.outsr := rfl
@[simp] theorem closeFrame_response (s : State) : s.closeFrame.response = s.response := rfl
@[simp] theorem closeFrame_agenda (s : State) : s.closeFrame.agenda = s.agenda := rfl

@[simp] theorem setCe_ce (v : Bool) (s : State) : (setCe v s).blk.ce = v := rfl
@[simp] theorem setCe_txn (v : Bool) (s : State) : (setCe v s).txn = s.txn := rfl
@[simp] theorem setMosi_blk (v : Bool) (s : State) : (setMosi v s).blk = s.blk := rfl
@[simp] theorem setMosi_txn (v : Bool) (s : State) : (setMosi v s).txn = s.txn := rfl

@[simp] theorem toggleBank_bank (b : Block) : (toggleBank b).bank = Bank.other b.bank := rfl
@[simp] theorem toggleBank_cfg (b : Block) : (toggleBank b).cfg = b.cfg := rfl
@[simp] theorem toggleBank_irq (b : Block) : (toggleBank b).irq = b.irq := rfl
@[simp] theorem toggleBank_txf (b : Block) : (toggleBank b).txf = b.txf := rfl
@[simp] theorem toggleBank_rxf (b : Block) : (toggleBank b).rxf = b.rxf := rfl

@[simp] theorem mapNext_next (f : State → State) (s : State) :
    mapNext f (.next s) = .next (f s) := rfl

theorem seen_of_open {s : State} {t : Txn} (h : s.txn = some t) : s.seen = t.snap := by
  simp [State.seen, h]

theorem seen_of_closed {s : State} (h : s.txn = none) : s.seen = s.blk := by
  simp [State.seen, h]

/-- The flags after setFlag: the one that is set, and the others as they were (rules R171 to R173). -/
theorem getLsbD_setFlag : ∀ (irq : BitVec 3) (f : Fin 3) (k : Nat), k < 3 →
    (setFlag irq f).getLsbD k = if k = f.val then true else irq.getLsbD k := by
  decide

end Sys2Proof.Machine
end

