-- ==== Sys2Proof/Laws/Storage.lean ====
section
/-! SUPPORT. Reading a register after a write, the widths, the address map, and the FIFOs' well-formedness. -/

namespace Sys2Proof.Machine

theorem bank0_bytes_length (b : Bank0) (r : Reg0) (h : r ≠ .status) :
    (b.bytes r).length = width0 r := by
  cases r <;> first | rfl | exact absurd rfl h

theorem bank1_bytes_length (b : Bank1) (r : Reg1) : (b.bytes r).length = width1 r := by
  cases r <;> rfl

theorem bank0_bytes_setBytes_same (b : Bank0) (r : Reg0) (f : Nat → Byte) (h : r ≠ .status) :
    (b.setBytes r f).bytes r = (List.range (width0 r)).map f := by
  cases r <;> first | rfl | exact absurd rfl h

theorem bank0_bytes_setBytes_other (b : Bank0) {r r' : Reg0} (f : Nat → Byte) (h : r' ≠ r) :
    (b.setBytes r f).bytes r' = b.bytes r' := by
  cases r <;> cases r' <;> first | rfl | exact absurd rfl h

theorem bank1_bytes_setBytes_same (b : Bank1) (r : Reg1) (f : Nat → Byte) :
    (b.setBytes r f).bytes r = (List.range (width1 r)).map f := by
  cases r <;> rfl

theorem bank1_bytes_setBytes_other (b : Bank1) {r r' : Reg1} (f : Nat → Byte) (h : r' ≠ r) :
    (b.setBytes r f).bytes r' = b.bytes r' := by
  cases r <;> cases r' <;> first | rfl | exact absurd rfl h

theorem mem_allReg0 (r : Reg0) : r ∈ allReg0 := by cases r <;> decide

/-- What reg0At finds is at that address. -/
theorem addr0_of_reg0At {l : Layout} {a : BitVec 5} {r : Reg0} (h : reg0At l a = some r) :
    addr0 l r = a := by
  have := List.find?_some h
  simpa using this

/-- In an admissible layout every register is found at its address. -/
theorem reg0At_addr0 {l : Layout} (hl : layoutOk l = true) (r : Reg0) :
    reg0At l (addr0 l r) = some r := by
  have hnd : (allReg0.map (addr0 l)).Nodup := by
    simp only [layoutOk, Bool.and_eq_true, decide_eq_true_eq] at hl
    exact hl.1.1.1.1.1
  cases h : reg0At l (addr0 l r) with
  | none =>
    have := List.find?_eq_none.mp h r (mem_allReg0 r)
    simp at this
  | some r' =>
    have := addr0_of_reg0At h
    exact congrArg some (List.inj_on_of_nodup_map hnd (mem_allReg0 r') (mem_allReg0 r) this)

@[simp] theorem reg0At_status (l : Layout) : reg0At l 0x07#5 = some .status := by
  simp [reg0At, allReg0, addr0]

@[simp] theorem reg0At_feature (l : Layout) : reg0At l 0x1D#5 = some .feature := by
  simp [reg0At, allReg0, addr0]

theorem txFifoOfDraw_ok (depth : Nat) (raw : List (List Byte × Option Pipe)) :
    txFifoOk depth (txFifoOfDraw depth raw) = true := by
  simp only [txFifoOk, txFifoOfDraw, List.length_map, Bool.and_eq_true, decide_eq_true_eq,
    List.all_eq_true, List.mem_map]
  refine ⟨List.length_take_le _ _, ?_⟩
  rintro _ ⟨e, he, rfl⟩
  exact (List.mem_filter.mp (List.mem_of_mem_take he)).2

theorem rxFifoOfDraw_ok (depth : Nat) (raw : List (Pipe × List Byte)) :
    rxFifoOk depth (rxFifoOfDraw depth raw) = true := by
  simp only [rxFifoOk, rxFifoOfDraw, List.length_map, Bool.and_eq_true, decide_eq_true_eq,
    List.all_eq_true, List.mem_map]
  refine ⟨List.length_take_le _ _, ?_⟩
  rintro _ ⟨e, he, rfl⟩
  exact (List.mem_filter.mp (List.mem_of_mem_take he)).2

/-- Every well-formed TX FIFO is the draw of itself, so a draw leaves every one of them possible. -/
theorem txFifoOfDraw_self {depth : Nat} {f : List TxEntry} (h : txFifoOk depth f = true) :
    txFifoOfDraw depth (f.map (fun e => (e.data, e.ack))) = f := by
  simp only [txFifoOk, Bool.and_eq_true, decide_eq_true_eq, List.all_eq_true] at h
  have hf : (f.map (fun e => (e.data, e.ack))).filter (fun e => payloadOk e.1)
      = f.map (fun e => (e.data, e.ack)) := by
    rw [List.filter_eq_self]
    rintro _ he
    obtain ⟨e, he', rfl⟩ := List.mem_map.mp he
    exact h.2 e he'
  rw [txFifoOfDraw, hf, List.take_of_length_le (by simpa using h.1), List.map_map]
  exact List.map_id' f

/-- Every well-formed RX FIFO is the draw of itself. -/
theorem rxFifoOfDraw_self {depth : Nat} {f : List RxEntry} (h : rxFifoOk depth f = true) :
    rxFifoOfDraw depth (f.map (fun e => (e.pipe, e.data))) = f := by
  simp only [rxFifoOk, Bool.and_eq_true, decide_eq_true_eq, List.all_eq_true] at h
  have hf : (f.map (fun e => (e.pipe, e.data))).filter (fun e => payloadOk e.2)
      = f.map (fun e => (e.pipe, e.data)) := by
    rw [List.filter_eq_self]
    rintro _ he
    obtain ⟨e, he', rfl⟩ := List.mem_map.mp he
    exact h.2 e he'
  rw [rxFifoOfDraw, hf, List.take_of_length_le (by simpa using h.1), List.map_map]
  exact List.map_id' f

/-- A read of payload bytes leaves every entry with 1 to 32 bytes (rule R58). -/
theorem rxConsume_keeps_ok {depth k : Nat} {pop : RxPop} {f : List RxEntry}
    (h : rxFifoOk depth f = true) : rxFifoOk depth (rxConsume pop k f) = true := by
  cases f with
  | nil => exact h
  | cons e rest =>
    have tail : rxFifoOk depth rest = true := by
      simp only [rxFifoOk, List.length_cons, List.all_cons, Bool.and_eq_true, decide_eq_true_eq] at h ⊢
      exact ⟨by omega, h.2.2⟩
    unfold rxConsume
    split_ifs
    · exact h
    · cases pop
      · simp only
        split_ifs with hk
        · exact tail
        · simp only [rxFifoOk, List.length_cons, List.all_cons, Bool.and_eq_true, decide_eq_true_eq,
            payloadOk, List.length_drop] at h ⊢
          exact ⟨h.1, ⟨by omega, by omega⟩, h.2.2⟩
      · exact tail

/-- What txPush can answer (rule R241). -/
theorem txPush_ok {b b' : Block} {data : List Byte} {ack : Option Pipe}
    (h : txPush b data ack = .ok b') :
    payloadOk data = true ∧ b.txf.length ≠ b.cfg.txDepth
      ∧ b' = { b with txf := b.txf ++ [{ data := data, ack := ack }] } := by
  unfold txPush at h
  split_ifs at h with h1 h2
  refine ⟨?_, h2, (Except.ok.inj h).symm⟩
  simp only [payloadOk, Bool.and_eq_true, decide_eq_true_eq]
  omega

/-- A pushed payload leaves the TX FIFO well-formed. -/
theorem txPush_keeps_ok {b b' : Block} {data : List Byte} {ack : Option Pipe}
    (hb : txFifoOk b.cfg.txDepth b.txf = true) (h : txPush b data ack = .ok b') :
    txFifoOk b.cfg.txDepth b'.txf = true := by
  obtain ⟨hp, hn, rfl⟩ := txPush_ok h
  simp only [txFifoOk, List.length_append, List.length_cons, List.length_nil, List.all_append,
    List.all_cons, List.all_nil, Bool.and_true, Bool.and_eq_true, decide_eq_true_eq] at hb ⊢
  exact ⟨by omega, hb.2, hp⟩

end Sys2Proof.Machine
end

