-- ==== Sys2Proof/Laws/Exec.lean ====
section
/-! SUPPORT. What an instruction can do, said once: the update it applies to the block, and that exec is its conclusion. -/

namespace Sys2Proof.Machine

/-- The update that each instruction applies to the block, or the code by which it is refused. -/
def update (i : Instr) (b : Block) : Except RefusalCode Block :=
  match i with
  | .rRegister _ _ => .ok b
  | .wRegister a data => writeRegister b a data
  | .activateBank => .ok (toggleBank b)
  | .activateFeature => unlockFeature b
  | .rRxPlWid _ => checkBank b (checkLock b (.ok b))
  | .rRxPayload data => checkBank b (.ok { b with rxf := rxConsume b.cfg.rxPop data.length b.rxf })
  | .wTxPayload data => checkBank b (txPush b data none)
  | .wTxPayloadAck p data => pushWithAck b p data
  | .flushTx _ => checkBank b (.ok { b with txf := [] })
  | .flushRx _ => checkBank b (.ok { b with rxf := [] })

/-- Every instruction is the conclusion of its update. -/
theorem exec_eq_conclude (i : Instr) (s : State) : exec i s = s.conclude i (update i s.blk) := by
  cases i <;> rfl

@[simp] theorem conclude_ok (i : Instr) (b : Block) (s : State) :
    s.conclude i (.ok b) = .next { s.answer (encode i) with blk := b } := rfl

@[simp] theorem conclude_error (i : Instr) (c : RefusalCode) (s : State) :
    s.conclude i (.error c) = .next (s.refuse c (encode i)) := rfl

/-- A conclusion is always a next state: the update's, or the refusal taken. -/
theorem conclude_cases {i : Instr} {r : Except RefusalCode Block} {s u : State}
    (h : s.conclude i r = .next u) :
    (∃ b, r = .ok b ∧ u = { s.answer (encode i) with blk := b })
      ∨ ∃ c, r = .error c ∧ u = s.refuse c (encode i) := by
  cases r with
  | ok b => exact .inl ⟨b, rfl, (Host.Outcome.next.inj h).symm⟩
  | error c => exact .inr ⟨c, rfl, (Host.Outcome.next.inj h).symm⟩

/-- What exec can answer: the instruction's update, or its refusal taken. -/
theorem exec_cases {i : Instr} {s u : State} (h : exec i s = .next u) :
    (∃ b, update i s.blk = .ok b ∧ u = { s.answer (encode i) with blk := b })
      ∨ ∃ c, update i s.blk = .error c ∧ u = s.refuse c (encode i) :=
  conclude_cases ((exec_eq_conclude i s).symm.trans h)

theorem checkBank_ok {b b' : Block} {k : Except RefusalCode Block} (h : checkBank b k = .ok b') :
    b.bank = .bank0 ∧ k = .ok b' := by
  unfold checkBank at h
  split_ifs at h with hb
  refine ⟨?_, h⟩
  cases hc : b.bank
  · rfl
  · exact absurd hc hb

theorem checkLock_ok {b b' : Block} {k : Except RefusalCode Block} (h : checkLock b k = .ok b') :
    b.featureLocked = false ∧ k = .ok b' := by
  unfold checkLock at h
  split_ifs at h with hb
  exact ⟨by simpa using hb, h⟩

/-- What a write to a bank-0 storage register can answer (rule R213). -/
theorem memWrite0_ok {b b' : Block} {r : Reg0} {data : List Byte} (h : memWrite0 b r data = .ok b') :
    (data.length = 0 ∧ b' = b) ∨
      (data.length ≠ 0 ∧ data.length ≤ width0 r
        ∧ b' = { b with reg0 := b.reg0.setBytes r (writtenByte b.draws data) }) := by
  unfold memWrite0 at h
  split_ifs at h with h1 h2
  · exact .inl ⟨h1, (Except.ok.inj h).symm⟩
  · exact .inr ⟨h1, by omega, (Except.ok.inj h).symm⟩

/-- What a write to a bank-1 register can answer (rules R213 and R214). -/
theorem memWrite1_ok {b b' : Block} {r : Reg1} {data : List Byte} (h : memWrite1 b r data = .ok b') :
    (data.length = 0 ∧ b' = b) ∨
      (data.length ≠ 0 ∧ data.length ≤ width1 r
        ∧ b' = { b with reg1 := b.reg1.setBytes r (writtenByte b.draws data) }) := by
  unfold memWrite1 at h
  split_ifs at h with h1 h2
  · exact .inl ⟨h1, (Except.ok.inj h).symm⟩
  · exact .inr ⟨h1, by omega, (Except.ok.inj h).symm⟩

/-- What a register write in bank 0 may change: storage, flags by write-one-to-clear, FIFOs emptied or
drawn; and CONFIG only when it is CONFIG that is written. -/
def Bank0Write (b : Block) (a : BitVec 5) (data : List Byte) (b' : Block) : Prop :=
  ∃ r0 irq txf rxf,
    b' = { b with reg0 := r0, irq := irq, txf := txf, rxf := rxf }
    ∧ (irq = b.irq ∨ ∃ v, irq = clearFlags b.irq v)
    ∧ (txf = b.txf ∨ txf = [] ∨ txf = b.drawnTxf)
    ∧ (rxf = b.rxf ∨ rxf = [] ∨ rxf = b.drawnRxf)
    ∧ (r0.config = b.reg0.config ∨ (reg0At b.cfg.layout a = some .config ∧ data = [r0.config]))

theorem bank0Write_refl (b : Block) (a : BitVec 5) (data : List Byte) : Bank0Write b a data b :=
  ⟨b.reg0, b.irq, b.txf, b.rxf, rfl, .inl rfl, .inl rfl, .inl rfl, .inl rfl⟩

theorem bank0Write_plain {b b' : Block} {a : BitVec 5} {data : List Byte} {r : Reg0}
    (hr : r ≠ .config) (h : memWrite0 b r data = .ok b') : Bank0Write b a data b' := by
  obtain ⟨-, rfl⟩ | ⟨-, -, rfl⟩ := memWrite0_ok h
  · exact bank0Write_refl _ _ _
  · refine ⟨_, b.irq, b.txf, b.rxf, rfl, .inl rfl, .inl rfl, .inl rfl, .inl ?_⟩
    cases r <;> first | rfl | exact absurd rfl hr

theorem bank0Write_status {b b' : Block} {a : BitVec 5} {data : List Byte}
    (h : writeStatus b data = .ok b') : Bank0Write b a data b' := by
  match data, h with
  | [], h => exact Except.ok.inj h ▸ bank0Write_refl _ _ _
  | [v], h =>
    exact ⟨b.reg0, clearFlags b.irq v, b.txf, b.rxf, (Except.ok.inj h).symm, .inr ⟨v, rfl⟩,
      .inl rfl, .inl rfl, .inl rfl⟩

theorem bank0Write_config {b b' : Block} {a : BitVec 5} {data : List Byte}
    (ha : reg0At b.cfg.layout a = some .config) (h : writeConfig b data = .ok b') :
    Bank0Write b a data b' := by
  match data, h with
  | [], h => exact Except.ok.inj h ▸ bank0Write_refl _ _ _
  | [v], h =>
    simp only [writeConfig] at h
    split_ifs at h
    have h := (Except.ok.inj h).symm
    unfold powerOffFifos at h
    split_ifs at h
    · exact ⟨_, b.irq, _, _, h, .inl rfl, .inr (.inr rfl), .inr (.inr rfl), .inr ⟨ha, rfl⟩⟩
    · exact ⟨_, b.irq, b.txf, b.rxf, h, .inl rfl, .inl rfl, .inl rfl, .inr ⟨ha, rfl⟩⟩

theorem bank0Write_aux {b b' : Block} {a : BitVec 5} {data : List Byte}
    (h : writeAux b data = .ok b') : Bank0Write b a data b' := by
  match data, h with
  | [], h => exact Except.ok.inj h ▸ bank0Write_refl _ _ _
  | [v], h =>
    refine ⟨b.reg0, b.irq, _, _, (Except.ok.inj h).symm, .inl rfl, ?_, ?_, .inl rfl⟩
    · split_ifs
      · exact .inr (.inl rfl)
      · exact .inl rfl
    · split_ifs
      · exact .inr (.inl rfl)
      · exact .inl rfl

theorem bank0Write_feature {b b' : Block} {a : BitVec 5} {data : List Byte}
    (h : writeFeature b data = .ok b') : Bank0Write b a data b' := by
  match data, h with
  | [], h => exact Except.ok.inj h ▸ bank0Write_refl _ _ _
  | [v], h =>
    simp only [writeFeature] at h
    split_ifs at h
    · exact Except.ok.inj h ▸ bank0Write_refl _ _ _
    · exact ⟨_, b.irq, b.txf, b.rxf, (Except.ok.inj h).symm, .inl rfl, .inl rfl, .inl rfl, .inl rfl⟩

/-- What a register write can do (rule R212): in bank 1 it changes bank-1 storage alone, in bank 0 what
Bank0Write says. -/
theorem writeRegister_ok {b b' : Block} {a : BitVec 5} {data : List Byte}
    (h : writeRegister b a data = .ok b') :
    (b.bank = .bank1 ∧ ∃ r1, b' = { b with reg1 := r1 })
      ∨ (b.bank = .bank0 ∧ Bank0Write b a data b') := by
  unfold writeRegister at h
  split_ifs at h with hb
  · refine .inl ⟨hb, ?_⟩
    unfold writeBank1 at h
    split at h
    · cases h
    · obtain ⟨-, rfl⟩ | ⟨-, -, rfl⟩ := memWrite1_ok h
      · exact ⟨b'.reg1, rfl⟩
      · exact ⟨_, rfl⟩
  · have hb0 : b.bank = .bank0 := by
      cases hc : b.bank
      · rfl
      · exact absurd hc hb
    refine .inr ⟨hb0, ?_⟩
    split at h
    · cases h
    · exact bank0Write_status h
    · exact bank0Write_config ‹_› h
    · exact bank0Write_aux h
    · exact bank0Write_feature h
    · unfold writeDynpd at h
      split_ifs at h
      exact bank0Write_plain (by decide) h
    · rename_i r _ hnc _ _ _ _
      exact bank0Write_plain (fun hr => hnc hr) h

/-- What no instruction's update changes, and how it may change the lock and the flags. -/
structure Keeps (b b' : Block) : Prop where
  cfg : b'.cfg = b.cfg
  ready : b'.ready = b.ready
  ce : b'.ce = b.ce
  csn : b'.csn = b.csn
  refused : b'.refused = b.refused
  refusals : b'.refusals = b.refusals
  draws : b'.draws = b.draws
  lock : b.featureLocked = false → b'.featureLocked = false
  irq : b'.irq = b.irq ∨ ∃ v, b'.irq = clearFlags b.irq v

theorem Keeps.refl (b : Block) : Keeps b b :=
  ⟨rfl, rfl, rfl, rfl, rfl, rfl, rfl, id, .inl rfl⟩

/-- Every update that is applied keeps what Keeps lists. -/
theorem update_keeps {i : Instr} {b b' : Block} (h : update i b = .ok b') : Keeps b b' := by
  cases i with
  | rRegister a d => cases h; exact .refl b
  | wRegister a d =>
    obtain ⟨-, r1, rfl⟩ | ⟨-, _, _, _, _, rfl, hirq, -⟩ := writeRegister_ok h
    · exact ⟨rfl, rfl, rfl, rfl, rfl, rfl, rfl, id, .inl rfl⟩
    · exact ⟨rfl, rfl, rfl, rfl, rfl, rfl, rfl, id, hirq⟩
  | activateBank => cases h; exact ⟨rfl, rfl, rfl, rfl, rfl, rfl, rfl, id, .inl rfl⟩
  | activateFeature =>
    unfold update unlockFeature at h
    split_ifs at h
    cases h
    exact ⟨rfl, rfl, rfl, rfl, rfl, rfl, rfl, fun _ => rfl, .inl rfl⟩
  | rRxPlWid d =>
    obtain ⟨-, h⟩ := checkBank_ok h
    obtain ⟨-, h⟩ := checkLock_ok h
    cases h
    exact .refl b
  | wTxPayload d =>
    obtain ⟨-, h⟩ := checkBank_ok h
    obtain ⟨-, -, rfl⟩ := txPush_ok h
    exact ⟨rfl, rfl, rfl, rfl, rfl, rfl, rfl, id, .inl rfl⟩
  | wTxPayloadAck p d =>
    simp only [update, pushWithAck] at h
    split at h
    · cases h
    · obtain ⟨-, h⟩ := checkBank_ok h
      obtain ⟨-, h⟩ := checkLock_ok h
      obtain ⟨-, -, rfl⟩ := txPush_ok h
      exact ⟨rfl, rfl, rfl, rfl, rfl, rfl, rfl, id, .inl rfl⟩
  | rRxPayload d | flushTx d | flushRx d =>
    obtain ⟨-, h⟩ := checkBank_ok h
    cases h
    exact ⟨rfl, rfl, rfl, rfl, rfl, rfl, rfl, id, .inl rfl⟩

/-- Only W_REGISTER changes register storage, and that of the selected bank alone. -/
theorem update_registers {i : Instr} {b b' : Block} (h : update i b = .ok b') :
    (b'.reg0 = b.reg0 ∧ b'.reg1 = b.reg1)
      ∨ ∃ a data, i = .wRegister a data
        ∧ ((b.bank = .bank1 ∧ b'.reg0 = b.reg0) ∨ (b.bank = .bank0 ∧ b'.reg1 = b.reg1)) := by
  cases i with
  | rRegister a d => cases h; exact .inl ⟨rfl, rfl⟩
  | wRegister a d =>
    obtain ⟨hb, r1, rfl⟩ | ⟨hb, _, _, _, _, rfl, -⟩ := writeRegister_ok h
    · exact .inr ⟨a, d, rfl, .inl ⟨hb, rfl⟩⟩
    · exact .inr ⟨a, d, rfl, .inr ⟨hb, rfl⟩⟩
  | activateBank => cases h; exact .inl ⟨rfl, rfl⟩
  | activateFeature =>
    unfold update unlockFeature at h
    split_ifs at h
    cases h
    exact .inl ⟨rfl, rfl⟩
  | rRxPlWid d =>
    obtain ⟨-, h⟩ := checkBank_ok h
    obtain ⟨-, h⟩ := checkLock_ok h
    cases h
    exact .inl ⟨rfl, rfl⟩
  | wTxPayload d =>
    obtain ⟨-, h⟩ := checkBank_ok h
    obtain ⟨-, -, rfl⟩ := txPush_ok h
    exact .inl ⟨rfl, rfl⟩
  | wTxPayloadAck p d =>
    simp only [update, pushWithAck] at h
    split at h
    · cases h
    · obtain ⟨-, h⟩ := checkBank_ok h
      obtain ⟨-, h⟩ := checkLock_ok h
      obtain ⟨-, -, rfl⟩ := txPush_ok h
      exact .inl ⟨rfl, rfl⟩
  | rRxPayload d | flushTx d | flushRx d =>
    obtain ⟨-, h⟩ := checkBank_ok h
    cases h
    exact .inl ⟨rfl, rfl⟩

end Sys2Proof.Machine
end

