-- ==== Sys2Proof/Laws/Fields.lean ====
section
/-! SUPPORT. The bits of a 4-byte register, and that splicing a trim in gives that trim and changes no other bit (rules R38
and R55). -/

namespace Sys2Proof.Machine

@[simp] theorem bits_ofBits (w : BitVec 32) : (Bytes4.ofBits w).bits = w := by
  apply BitVec.eq_of_getLsbD_eq
  intro i hi
  simp only [Bytes4.bits, Bytes4.ofBits, BitVec.getLsbD_append, BitVec.getLsbD_extractLsb']
  split_ifs with h1 h2 h3
  · simp [h1]
  · simp [h2, show 8 + (i - 8) = i by omega]
  · simp [h3, show 16 + (i - 8 - 8) = i by omega]
  · simp [show i - 8 - 8 - 8 < 8 by omega, show 24 + (i - 8 - 8 - 8) = i by omega]

theorem getLsbD_withBit {n : Nat} (v : BitVec n) (pos i : Nat) (on : Bool) (hi : i < n) :
    (withBit v pos on).getLsbD i = if i = pos then on else v.getLsbD i := by
  by_cases h : i = pos
  · subst h
    cases on <;> simp [withBit, hi]
  · cases on <;> simp [withBit, h, hi]

/-- Three bits put together from the highest are the trim they come from. -/
theorem ofBool_append_bits : ∀ t : BitVec 3,
    BitVec.ofBool (t.getLsbD 2) ++ BitVec.ofBool (t.getLsbD 1) ++ BitVec.ofBool (t.getLsbD 0) = t := by
  decide

/-- The bits of a register with a trim spliced in: the trim's in its three places, the old ones elsewhere. -/
theorem spliceTrim_bit (t : BitVec 3) (v : Bytes4) (i : Fin 32) :
    (spliceTrim t v).bits.getLsbD i =
      if i = Config.trimPlace 2 then t.getLsbD 2
      else if i = Config.trimPlace 1 then t.getLsbD 1
      else if i = Config.trimPlace 0 then t.getLsbD 0
      else v.bits.getLsbD i := by
  simp only [spliceTrim, bits_ofBits, getLsbD_withBit _ _ _ _ i.isLt, Fin.ext_iff]

/-- The trim that a register holds is the one spliced in. -/
@[simp] theorem trimOf_spliceTrim (t : BitVec 3) (v : Bytes4) : trimOf (spliceTrim t v) = t := by
  have h01 : Config.trimPlace 0 ≠ Config.trimPlace 1 := Config.trimPlace.injective.ne (by decide)
  have h02 : Config.trimPlace 0 ≠ Config.trimPlace 2 := Config.trimPlace.injective.ne (by decide)
  have h12 : Config.trimPlace 1 ≠ Config.trimPlace 2 := Config.trimPlace.injective.ne (by decide)
  simp only [trimOf, spliceTrim_bit, h01, h02, h12, if_true, if_false]
  exact ofBool_append_bits t

/-- The power field that withRfPwr puts into RF_SETUP is read back. -/
theorem rfPwr_withRfPwr {l : Layout} (hl : l.posRfPwr.val < 7) (v : Byte) (f : BitVec 2) :
    (withRfPwr l v f).extractLsb' l.posRfPwr.val 2 = f := by
  apply BitVec.eq_of_getLsbD_eq
  intro i hi
  have h8 : l.posRfPwr.val + i < 8 := by omega
  have h3 : (3#8).getLsbD i = true := by
    obtain rfl | rfl : i = 0 ∨ i = 1 := by omega
    all_goals rfl
  simp [withRfPwr, hi, h8, h3]

/-- After the two writes of the transmit-power change, the level it was asked for is selected (rule R38). -/
theorem hasTxLevel_of_writes {b : Block} {level : TxLevel} {v : Byte} {x : Bytes4}
    (hl : b.cfg.layout.posRfPwr.val < 7)
    (h0 : b.reg0.rfSetup = withRfPwr b.cfg.layout v (Config.txPwrMap level).1)
    (h1 : b.reg1.r04 = spliceTrim (Config.txPwrMap level).2 x) : b.hasTxLevel level = true := by
  simp [Block.hasTxLevel, Block.rfPwr, Block.txTrim, h0, h1, rfPwr_withRfPwr hl]

end Sys2Proof.Machine
end

