-- ==== Sys2Proof/Laws/HostPrograms.lean ====
section
/-! SUPPORT. What the bring-up's transactions leave in the block (rules R168, R295 and R302), with no other agent's step between
them. -/

namespace Sys2Proof.Machine

/-- What a transaction carrying `i` does to the block: its draws get a number, and the update is applied. -/
def transact (b : Block) (i : Instr) : Except RefusalCode Block := update i { b with draws := b.draws + 1 }

/-- What transactions one after the other do to the block, up to the first refusal. -/
def transactAll (is : List Instr) (b : Block) : Except RefusalCode Block := is.foldlM transact b

@[simp] theorem transactAll_nil (b : Block) : transactAll [] b = .ok b := rfl

theorem transactAll_cons {i : Instr} {is : List Instr} {b b' : Block} (h : transact b i = .ok b') :
    transactAll (i :: is) b = transactAll is b' := by
  simp only [transactAll, List.foldlM_cons, h]
  rfl

theorem transactAll_append {is js : List Instr} {b b' : Block} (h : transactAll is b = .ok b') :
    transactAll (is ++ js) b = transactAll js b' := by
  simp only [transactAll, List.foldlM_append] at h ⊢
  rw [h]
  rfl

/-- The register-4 toggle leaves register 4 holding B1R4, and changes nothing else (rule R302). -/
theorem toggle_leaves_b1r4 {b : Block} (hb : b.bank = .bank0) :
    transactAll (toggleOn ++ toggleOff) b
      = .ok { b with reg1 := { b.reg1 with r04 := b1Defaults.r04 }, draws := b.draws + 4 } := by
  cases b
  cases hb
  rfl

/-- A write of register 4 between two bank toggles leaves it holding the bytes, and changes nothing else: the
second half of the transmit-power change (rule R38). -/
theorem register4_write {b : Block} (hb : b.bank = .bank0) (v : Bytes4) :
    transactAll [bankToggle, wrN 0x04#5 v.toList, bankToggle] b
      = .ok { b with reg1 := { b.reg1 with r04 := v }, draws := b.draws + 3 } := by
  cases b
  cases hb
  rfl

/-- The bank-1 default writes leave REG1 holding B1_DEFAULTS, and change nothing else (rule R295). -/
theorem bank1Defaults_fill_reg1 {b : Block} (hb : b.bank = .bank1) :
    transactAll bank1Defaults b = .ok { b with reg1 := b1Defaults, draws := b.draws + 15 } := by
  cases b
  cases hb
  rfl

/-- A write as long as its register leaves no draw in it. -/
theorem map_writtenByte (n : Nat) (data : List Byte) :
    (List.range data.length).map (writtenByte n data) = data := by
  apply List.ext_getElem (by simp)
  intro j h1 h2
  simp [writtenByte, h2]

/-- A write of a storage register's whole width is admitted (rule R213). -/
theorem memWrite0_full (b : Block) {r : Reg0} {v : List Byte} (hv : v.length = width0 r) :
    memWrite0 b r v = .ok { b with reg0 := b.reg0.setBytes r (writtenByte b.draws v) } := by
  have h0 : v.length ≠ 0 := by rw [hv]; cases r <;> decide
  have h1 : ¬width0 r < v.length := by omega
  rw [memWrite0, if_neg h0, if_neg h1]

/-- A one-byte CONFIG write with CE low is admitted (rule R217). -/
theorem writeConfig_ceLow {b : Block} (hc : b.ce = false) (x : Byte) :
    writeConfig b [x]
      = .ok (powerOffFifos { b with reg0 := { b.reg0 with config := x } } b.reg0.config x) := by
  simp only [writeConfig, hc, Bool.false_eq_true, false_and, if_false]

/-- A one-byte FEATURE write with the lock open stores the byte (rule R221). -/
theorem writeFeature_unlocked {b : Block} (hu : b.featureLocked = false) (x : Byte) :
    writeFeature b [x] = .ok { b with reg0 := { b.reg0 with feature := x } } := by
  rw [writeFeature, if_neg (by simp [hu])]

/-- A DYNPD write with the lock open is a storage write (rule R222). -/
theorem writeDynpd_unlocked {b : Block} (hu : b.featureLocked = false) (v : List Byte) :
    writeDynpd b v = memWrite0 b .dynpd v := by
  rw [writeDynpd, if_neg (by simp [hu])]

/-- What the bring-up's bank-0 writes leave alone. -/
structure SameSetting (b b' : Block) : Prop where
  cfg : b'.cfg = b.cfg
  bank : b'.bank = b.bank
  lock : b'.featureLocked = b.featureLocked
  reg1 : b'.reg1 = b.reg1
  ce : b'.ce = b.ce

theorem SameSetting.trans {b b' b'' : Block} (h : SameSetting b b') (h' : SameSetting b' b'') :
    SameSetting b b'' :=
  ⟨h'.cfg.trans h.cfg, h'.bank.trans h.bank, h'.lock.trans h.lock, h'.reg1.trans h.reg1,
    h'.ce.trans h.ce⟩

/-- In bank 0, with the lock open and CE low, a write of a register's whole width is admitted; the register
then holds the data, and every other register what it held. -/
theorem update_write_bank0 {b : Block} (hl : layoutOk b.cfg.layout = true) (hb : b.bank = .bank0)
    (hu : b.featureLocked = false) (hc : b.ce = false) (r : Reg0) (v : List Byte)
    (hv : v.length = width0 r) :
    ∃ b', update (wrN (addr0 b.cfg.layout r) v) b = .ok b' ∧ SameSetting b b'
      ∧ (r ≠ .status → r ≠ .auxStatus → b'.reg0.bytes r = v)
      ∧ ∀ r', r' ≠ r → b'.reg0.bytes r' = b.reg0.bytes r' := by
  have hplain : ∀ r, r ≠ .status → v.length = width0 r →
      ∃ b', memWrite0 b r v = .ok b' ∧ SameSetting b b'
        ∧ (r ≠ .status → r ≠ .auxStatus → b'.reg0.bytes r = v)
        ∧ ∀ r', r' ≠ r → b'.reg0.bytes r' = b.reg0.bytes r' := by
    intro r hr hv
    refine ⟨_, memWrite0_full _ hv, ⟨rfl, rfl, rfl, rfl, rfl⟩, fun _ _ => ?_, fun r' hr' => ?_⟩
    · rw [bank0_bytes_setBytes_same _ _ _ hr, ← hv, map_writtenByte]
    · exact bank0_bytes_setBytes_other _ _ hr'
  simp only [wrN, update, writeRegister, if_neg (show ¬b.bank = .bank1 by simp [hb]), reg0At_addr0 hl r]
  cases r
  case status =>
    obtain ⟨x, rfl⟩ := List.length_eq_one_iff.mp hv
    exact ⟨_, rfl, ⟨rfl, rfl, rfl, rfl, rfl⟩, fun h => absurd rfl h, fun _ _ => rfl⟩
  case auxStatus =>
    obtain ⟨x, rfl⟩ := List.length_eq_one_iff.mp hv
    exact ⟨_, rfl, ⟨rfl, rfl, rfl, rfl, rfl⟩, fun _ h => absurd rfl h, fun _ _ => rfl⟩
  case config =>
    obtain ⟨x, rfl⟩ := List.length_eq_one_iff.mp hv
    refine ⟨_, writeConfig_ceLow hc x, ?_, fun _ _ => ?_, fun r' hr' => ?_⟩
    all_goals unfold powerOffFifos; split_ifs
    all_goals first
      | exact ⟨rfl, rfl, rfl, rfl, rfl⟩
      | rfl
      | (cases r' <;> first | rfl | exact absurd rfl hr')
  case feature =>
    obtain ⟨x, rfl⟩ := List.length_eq_one_iff.mp hv
    refine ⟨_, writeFeature_unlocked hu x, ⟨rfl, rfl, rfl, rfl, rfl⟩, fun _ _ => rfl, fun r' hr' => ?_⟩
    cases r' <;> first | rfl | exact absurd rfl hr'
  case dynpd =>
    simp only [writeDynpd_unlocked hu]
    exact hplain .dynpd (by decide) hv
  all_goals exact hplain _ (by decide) hv

/-- The same of the transaction. -/
theorem transact_write_bank0 {b : Block} (hl : layoutOk b.cfg.layout = true) (hb : b.bank = .bank0)
    (hu : b.featureLocked = false) (hc : b.ce = false) (r : Reg0) (v : List Byte)
    (hv : v.length = width0 r) :
    ∃ b', transact b (wrN (addr0 b.cfg.layout r) v) = .ok b' ∧ SameSetting b b'
      ∧ (r ≠ .status → r ≠ .auxStatus → b'.reg0.bytes r = v)
      ∧ ∀ r', r' ≠ r → b'.reg0.bytes r' = b.reg0.bytes r' := by
  obtain ⟨b', h, hs, hr⟩ := update_write_bank0 (b := { b with draws := b.draws + 1 }) hl hb hu hc r v hv
  exact ⟨b', h, ⟨hs.cfg, hs.bank, hs.lock, hs.reg1, hs.ce⟩, hr⟩

/-- After full-width writes in bank 0, each register that has storage holds the last bytes written to it. -/
theorem transactAll_writes_bank0 (ws : List (Reg0 × List Byte)) :
    ∀ {b : Block}, layoutOk b.cfg.layout = true → b.bank = .bank0 → b.featureLocked = false →
    b.ce = false → (∀ w ∈ ws, w.2.length = width0 w.1) →
    ∃ b', transactAll (writesOf b.cfg.layout ws) b = .ok b' ∧ SameSetting b b'
      ∧ ∀ r, r ≠ .status → r ≠ .auxStatus →
          b'.reg0.bytes r = (lastWrite ws r).getD (b.reg0.bytes r) := by
  induction ws with
  | nil => exact fun _ _ _ _ _ => ⟨_, rfl, ⟨rfl, rfl, rfl, rfl, rfl⟩, fun _ _ _ => rfl⟩
  | cons w ws ih =>
    intro b hl hb hu hc hw
    obtain ⟨b1, h1, hs1, hr1, ho1⟩ := transact_write_bank0 hl hb hu hc w.1 w.2 (hw w (by simp))
    obtain ⟨b2, h2, hs2, hr2⟩ := ih (hs1.cfg ▸ hl) (hs1.bank.trans hb) (hs1.lock.trans hu)
      (hs1.ce.trans hc) (fun x hx => hw x (by simp [hx]))
    refine ⟨b2, ?_, hs1.trans hs2, fun r hst hau => ?_⟩
    · rw [writesOf, List.map_cons, transactAll_cons h1, ← hs1.cfg]
      exact h2
    · rw [hr2 r hst hau]
      simp only [lastWrite, List.reverse_cons, List.lookup_append]
      cases hlk : ws.reverse.lookup r with
      | some x => rfl
      | none =>
        by_cases hr : r = w.1
        · subst hr
          simp [List.lookup, hr1 hst hau]
        · have hbeq : (r == w.1) = false := by simpa using hr
          simp [List.lookup, hbeq, ho1 r hr]

/-- Every bank-0 default write carries as many bytes as its register has (rule R300). -/
theorem bank0Writes_widths : ∀ w ∈ bank0Writes, w.2.length = width0 w.1 := by
  have ht : ∀ i : Fin 18, width0 trimTargets[i] = 1 := by decide
  have hb : ∀ r, (b0Bytes r).length = width0 r := fun r => by simp [b0Bytes]
  intro w hw
  simp only [bank0Writes, List.mem_append, List.mem_map] at hw
  obtain (((⟨r, -, rfl⟩ | hw) | ⟨k, -, rfl⟩) | ⟨k, -, rfl⟩) | hw := hw
  · exact hb r
  · simp only [List.mem_cons, List.not_mem_nil, or_false] at hw
    obtain rfl | rfl | rfl := hw <;> exact hb _
  · exact (ht _).symm
  · exact (ht _).symm
  · simp only [List.mem_cons, List.not_mem_nil, or_false] at hw
    obtain rfl | rfl | rfl := hw <;> rfl

/-- The feature probe's write, read and unlock (rule R294, steps 5 and 6), where the byte read was 0x00 just
when the lock is closed: the block is in bank 0 with the lock open. -/
theorem featureProbe_unlocks {b : Block} {f6 : Byte} (hb : b.bank = .bank1)
    (hf : f6 = 0x00#8 ↔ b.featureLocked = true) :
    ∃ b', transactAll (featureProbe ++ if f6 = 0x00#8 then [featureUnlock] else []) b = .ok b'
      ∧ b'.cfg = b.cfg ∧ b'.bank = .bank0 ∧ b'.featureLocked = false ∧ b'.reg1 = b.reg1 ∧ b'.ce = b.ce := by
  cases b with
  | mk cfg ready bank lock reg0 reg1 irq txf rxf ce csn refused refusals draws =>
    cases hb
    cases lock
    · rw [if_neg (by simp [hf])]
      simp only [transactAll, featureProbe, List.append_nil, List.foldlM_cons, List.foldlM_nil, bankToggle,
        wr1, rd1, transact, update, toggleBank, writeRegister, reg0At_feature]
      exact ⟨_, rfl, rfl, rfl, rfl, rfl, rfl⟩
    · rw [if_pos (by simp [hf])]
      simp only [transactAll, featureProbe, List.foldlM_append, List.foldlM_cons, List.foldlM_nil, bankToggle,
        wr1, rd1, featureUnlock, transact, update, toggleBank, writeRegister, reg0At_feature]
      exact ⟨_, rfl, rfl, rfl, rfl, rfl, rfl⟩

/-- The state after the bring-up (rules R294 and R295): its transactions from bank 1 to its end, with CE low,
are all admitted and leave the block brought up. -/
theorem bringUp_leaves_broughtUp {b : Block} {f6 : Byte} (hl : layoutOk b.cfg.layout = true)
    (hb : b.bank = .bank1) (hc : b.ce = false) (hf : f6 = 0x00#8 ↔ b.featureLocked = true) :
    ∃ b', transactAll (bringUpWrites b.cfg.layout f6 ++ (toggleOn ++ toggleOff)) b = .ok b'
      ∧ b'.cfg = b.cfg ∧ b'.BroughtUp := by
  obtain ⟨b2, h2, hcfg, hbank, hlock, hreg1, hce⟩ :=
    featureProbe_unlocks (b := { b with reg1 := b1Defaults, draws := b.draws + 15 }) hb hf
  obtain ⟨b3, h3, hs, hst⟩ := transactAll_writes_bank0 bank0Writes (b := b2) (hcfg ▸ hl) hbank hlock
    (hce.trans hc) bank0Writes_widths
  refine ⟨{ b3 with reg1 := { b3.reg1 with r04 := b1Defaults.r04 }, draws := b3.draws + 4 }, ?_,
    hs.cfg.trans hcfg, hs.bank.trans hbank, hs.lock.trans hlock, ?_, ?_, hs.ce.trans (hce.trans hc)⟩
  · have hl2 : b.cfg.layout = b2.cfg.layout := congrArg Params.layout hcfg.symm
    have hpre : transactAll (bringUpWrites b.cfg.layout f6) b = .ok b3 := by
      simp only [bringUpWrites, List.append_assoc]
      rw [transactAll_append (bank1Defaults_fill_reg1 hb), ← List.append_assoc, transactAll_append h2, hl2, h3]
    rw [transactAll_append hpre]
    exact toggle_leaves_b1r4 (hs.bank.trans hbank)
  · change { b3.reg1 with r04 := b1Defaults.r04 } = b1Defaults
    rw [hs.reg1.trans hreg1]
  · intro r v hr1 hr2 hlw
    exact (hst r hr1 hr2).trans (by rw [hlw]; rfl)

theorem lastWrite_append (xs ys : List (Reg0 × List Byte)) (r : Reg0) :
    lastWrite (xs ++ ys) r = (lastWrite ys r).or (lastWrite xs r) := by
  simp [lastWrite, List.lookup_append]

theorem lastWrite_eq_none {ws : List (Reg0 × List Byte)} {r : Reg0} (h : ∀ w ∈ ws, w.1 ≠ r) :
    lastWrite ws r = none := by
  simp only [lastWrite, List.lookup_eq_none_iff, List.mem_reverse, bne_iff_ne]
  exact fun w hw => (h w hw).symm

/-- The last write to CONFIG is its default's: no trim or size write reaches it. -/
theorem lastWrite_config : lastWrite bank0Writes .config = some [Config.b0Default .config 0] := by
  have ht : ∀ i : Fin 18, trimTargets[i] ≠ .config := by decide
  simp only [bank0Writes, lastWrite_append]
  rw [lastWrite_eq_none (ws := List.map _ (List.finRange 5)), lastWrite_eq_none (ws := List.map _ (List.finRange 4))]
  · rfl
  all_goals
    simp only [List.mem_map]
    rintro _ ⟨k, -, rfl⟩
    exact ht _

/-- After the bring-up FEATURE is 0x02 and DYNPD is 0x00 (rule R295). -/
theorem feature_dynpd_of_broughtUp {b : Block} (h : b.BroughtUp) :
    b.reg0.feature = 0x02#8 ∧ b.reg0.dynpd = 0x00#8 := by
  have hf := h.stored .feature [0x02#8] (by decide) (by decide) (by rw [bank0Writes, lastWrite_append]; rfl)
  have hd := h.stored .dynpd [0x00#8] (by decide) (by decide) (by rw [bank0Writes, lastWrite_append]; rfl)
  exact ⟨(List.cons.inj hf).1, (List.cons.inj hd).1⟩

/-- The derived mode after the bring-up is Standby or PowerOff by the PWR_UP bit of the CONFIG default
(rule R168). -/
theorem mode_of_broughtUp {b : Block} (h : b.BroughtUp) :
    b.mode = if pwrUpOf b.cfg (Config.b0Default .config 0) then .standby else .powerOff := by
  have hc := (List.cons.inj (h.stored .config _ (by decide) (by decide) lastWrite_config)).1
  rw [Block.mode, hc, h.ce]
  cases pwrUpOf b.cfg (Config.b0Default .config 0) <;> rfl

end Sys2Proof.Machine
end

