-- ==== Sys2Proof/Laws/PerInstr.lean ====
section
/-! SUPPORT. Per instruction: its command byte selects its command (rules R101 to R106). -/

namespace Sys2Proof.Laws

/-- The command byte that a well-formed instruction is encoded with selects that instruction's command. -/
def CommandSelected.Statement (i : Instr) : Prop :=
  i.wf = true → decodeByte i.commandByte = i.command

theorem CommandSelected.rRegister (addr : BitVec 5) (data : List Byte) :
    CommandSelected.Statement (.rRegister addr data) := by
  intro h
  clear h
  change decodeByte (0b000#3 ++ addr) = .rRegister addr
  revert addr
  decide

theorem CommandSelected.wRegister (addr : BitVec 5) (data : List Byte) :
    CommandSelected.Statement (.wRegister addr data) := by
  intro h
  clear h
  change decodeByte (0b001#3 ++ addr) = .wRegister addr
  revert addr
  decide

theorem CommandSelected.activateBank : CommandSelected.Statement .activateBank := by
  intro _
  decide

theorem CommandSelected.activateFeature : CommandSelected.Statement .activateFeature := by
  intro _
  decide

theorem CommandSelected.rRxPlWid (data : List Byte) :
    CommandSelected.Statement (.rRxPlWid data) := by
  intro _
  change decodeByte 0x60#8 = .rRxPlWid
  decide

theorem CommandSelected.rRxPayload (data : List Byte) :
    CommandSelected.Statement (.rRxPayload data) := by
  intro _
  change decodeByte 0x61#8 = .rRxPayload
  decide

theorem CommandSelected.wTxPayload (data : List Byte) :
    CommandSelected.Statement (.wTxPayload data) := by
  intro _
  change decodeByte 0xA0#8 = .wTxPayload
  decide

theorem CommandSelected.wTxPayloadAck (pipe : BitVec 3) (data : List Byte) :
    CommandSelected.Statement (.wTxPayloadAck pipe data) := by
  intro h
  change decide (pipe ≤ 5#3) = true at h
  change decodeByte (0b10101#5 ++ pipe) = .wTxPayloadAck pipe
  revert pipe
  decide

theorem CommandSelected.flushTx (data : List Byte) :
    CommandSelected.Statement (.flushTx data) := by
  intro _
  change decodeByte 0xE1#8 = .flushTx
  decide

theorem CommandSelected.flushRx (data : List Byte) :
    CommandSelected.Statement (.flushRx data) := by
  intro _
  change decodeByte 0xE2#8 = .flushRx
  decide

end Sys2Proof.Laws
end

