-- ==== Sys2Proof/Laws/Step.lean ====
section
/-! SUPPORT. What a step can do, said once: an input that closes no frame, or the end of an open transaction. -/

namespace Sys2Proof.Machine

/-- What an input does when it closes no open transaction. -/
def passive (e : Event) (s : State) : State :=
  match e with
  | .ce v => setCe v s
  | .csn v => if v = s.blk.csn then s else if v then s.csnHigh else csnFall s
  | .sck v => setSck v s
  | .mosi v => setMosi v s
  | .wait _ => s
  | .rxDeliver p d => rxDeliver p d s
  | .txSent => txSent s
  | .txMaxRt => txMaxRt s
  | .bootDone => bootDone s
  | .powerOn => powerOn s

/-- What the end of transaction `t` can do to `s`, before the frame is closed: a refusal, nothing but the
answer, or the update of the instruction that the bytes decode to. -/
def Ends (t : Txn) (s u : State) : Prop :=
  (∃ code, u = s.refuse code t.bytes)
    ∨ u = s.answer t.bytes
    ∨ ∃ c data i, t.bit = 0 ∧ t.bytes = c :: data ∧ s.blk.ready = true
        ∧ decodeFrame c data = .ok i ∧ exec i s = .next u

/-- The end of a frame always answers a next state, one of those of Ends. -/
theorem endFrame_cases (t : Txn) (s : State) : ∃ u, endFrame t s = .next u ∧ Ends t s u := by
  by_cases hb : t.bit = 0
  · cases ht : t.bytes with
    | nil => exact ⟨s.answer [], by simp [endFrame, hb, ht], .inr (.inl (by rw [ht]))⟩
    | cons c data =>
      cases hr : s.blk.ready with
      | false => exact ⟨s.answer (c :: data), by simp [endFrame, hb, ht, hr], .inr (.inl (by rw [ht]))⟩
      | true =>
        cases hd : decodeFrame c data with
        | error code =>
          exact ⟨s.refuse code (c :: data), by simp [endFrame, hb, ht, hr, hd], .inl ⟨code, by rw [ht]⟩⟩
        | ok i =>
          have he : endFrame t s = exec i s := by simp [endFrame, hb, ht, hr, hd]
          cases hu : update i s.blk with
          | ok b =>
            have hx : exec i s = .next { s.answer (encode i) with blk := b } := by
              rw [exec_eq_conclude, hu, conclude_ok]
            exact ⟨_, he.trans hx, .inr (.inr ⟨c, data, i, hb, ht, hr, hd, hx⟩)⟩
          | error code =>
            have hx : exec i s = .next (s.refuse code (encode i)) := by
              rw [exec_eq_conclude, hu, conclude_error]
            exact ⟨_, he.trans hx, .inr (.inr ⟨c, data, i, hb, ht, hr, hd, hx⟩)⟩
  · exact ⟨s.refuse .rf01PartialByte t.bytes, by simp [endFrame, hb], .inl ⟨_, rfl⟩⟩

/-- The step at the end of a frame. -/
theorem step_of_endsFrame {s : State} {t : Txn} {rest : List Event} (h : EndsFrame s t rest) :
    step s = mapNext State.closeFrame (endFrame t (s.risen rest)) := by
  obtain ⟨ha, hc, ht⟩ := h
  simp [step, takeInput, ha, handle, setCsn, hc, csnRise, ht, State.risen, State.csnHigh]

/-- What a step can do: nothing, an input that closes no frame, or the end of the open transaction. -/
theorem step_cases {s u : State} (h : step s = .next u) :
    (s.agenda = [] ∧ u = s)
      ∨ (∃ e rest, s.agenda = e :: rest ∧ u = passive e { s with agenda := rest }
          ∧ (e = .csn true → s.blk.csn = false → s.txn = none))
      ∨ (∃ t rest v, EndsFrame s t rest ∧ Ends t (s.risen rest) v ∧ u = v.closeFrame) := by
  cases ha : s.agenda with
  | nil =>
    refine .inl ⟨rfl, ?_⟩
    simp only [step, takeInput, ha] at h
    exact (Host.Outcome.next.inj h).symm
  | cons e rest =>
    by_cases hclose : e = .csn true ∧ s.blk.csn = false ∧ s.txn ≠ none
    · obtain ⟨rfl, hc, ht⟩ := hclose
      obtain ⟨t, ht⟩ := Option.ne_none_iff_exists'.mp ht
      have hf : EndsFrame s t rest := ⟨ha, hc, ht⟩
      obtain ⟨v, hv, hE⟩ := endFrame_cases t (s.risen rest)
      rw [step_of_endsFrame hf, hv, mapNext_next] at h
      exact .inr (.inr ⟨t, rest, v, hf, hE, (Host.Outcome.next.inj h).symm⟩)
    · refine .inr (.inl ⟨e, rest, rfl, ?_, ?_⟩)
      · simp only [step, takeInput, ha] at h
        cases e with
        | csn v =>
          simp only [handle, setCsn] at h
          simp only [passive]
          split_ifs at h ⊢ with h1 h2
          · exact (Host.Outcome.next.inj h).symm
          · have hc : s.blk.csn = false := by
              cases hcs : s.blk.csn with
              | false => rfl
              | true => exact absurd (h2.trans hcs.symm) h1
            have ht : s.txn = none := by
              by_contra ht
              exact hclose ⟨by rw [h2], hc, ht⟩
            have hr : csnRise { s with agenda := rest }
                = .next (State.csnHigh { s with agenda := rest }) := by
              simp [csnRise, ht]
            rw [hr] at h
            exact (Host.Outcome.next.inj h).symm
          · exact (Host.Outcome.next.inj h).symm
        | _ => exact (Host.Outcome.next.inj h).symm
      · intro he hc
        by_contra ht
        exact hclose ⟨he, hc, ht⟩

/-- What an input that closes no frame keeps: the parameters always; the bank, the lock, the registers
and the record of refusals unless it is power-on; the flags unless it is power-on or a RadioCore step. -/
theorem passive_keeps (e : Event) (s : State) :
    (passive e s).blk.cfg = s.blk.cfg
      ∧ (e ≠ .powerOn → (passive e s).blk.bank = s.blk.bank
          ∧ (passive e s).blk.featureLocked = s.blk.featureLocked
          ∧ (passive e s).blk.reg0 = s.blk.reg0 ∧ (passive e s).blk.reg1 = s.blk.reg1
          ∧ (passive e s).blk.refused = s.blk.refused
          ∧ (passive e s).blk.refusals = s.blk.refusals)
      ∧ (e ≠ .powerOn → e.isRadio = false → (passive e s).blk.irq = s.blk.irq) := by
  cases e <;>
    simp only [passive, setCe, setSck, setMosi, csnFall, sckRise, sckFall, rxDeliver, txSent, txMaxRt,
      bootDone, powerOn, State.csnHigh] <;>
    (try split_ifs) <;> (try split) <;> (try split_ifs) <;>
    simp [Block.opened, Block.poweredOn, Event.isRadio]

/-- A run goes on from the state its first step answers. -/
theorem run_succ_of_step {n : Nat} {s u : State} (h : step s = .next u) :
    Host.Core.run core (n + 1) s = Host.Core.run core n u := by
  have h' : core.step s = .next u := h
  simp only [Host.Core.run, h']

/-- A run goes on from the state its first part answers. -/
theorem run_add_of_run {a : Nat} (b : Nat) {s u : State} (h : Host.Core.run core a s = .next u) :
    Host.Core.run core (a + b) s = Host.Core.run core b u := by
  induction a generalizing s with
  | zero =>
    have : s = u := Host.Outcome.next.inj h
    rw [this, Nat.zero_add]
  | succ a ih =>
    rw [Nat.succ_add]
    simp only [Host.Core.run] at h ⊢
    cases hs : core.step s with
    | next v => rw [hs] at h; exact ih h
    | fault r => rw [hs] at h; cases h
    | refused r => rw [hs] at h; cases h

/-- With no input to come, a run stays where it is (rule R169). -/
theorem run_of_idle (k : Nat) {s : State} (h : s.agenda = []) : Host.Core.run core k s = .next s := by
  induction k with
  | zero => rfl
  | succ k ih =>
    rw [run_succ_of_step (u := s) (by simp [step, takeInput, h])]
    exact ih

end Sys2Proof.Machine
end

