-- ==== Sys2Proof/Tests/Slice0.lean ====
section
/-! SUPPORT. Tests of single steps, with expected values from 95_test_vectors.md and the encodings of 30_encoding.md, and the
witnesses that each obligation's hypotheses can be met. -/

namespace Sys2Proof.Tests

open Sys2Proof.Machine

/-! States -/

/-- Bank 0 of the start state S0 of 95_test_vectors.md. -/
def bank0S0 : Bank0 := { resetBank0 with
  config := 0x0A#8
  setupRetr := 0x17#8
  rfCh := 0x17#8
  rfSetup := 0x07#8
  rxAddrP0 := ⟨0x34#8, 0x43#8, 0x10#8, 0x10#8, 0x01#8⟩
  rxAddrP1 := ⟨0x39#8, 0x38#8, 0x37#8, 0x36#8, 0xC2#8⟩
  txAddr := ⟨0x34#8, 0x43#8, 0x10#8, 0x10#8, 0x01#8⟩
  rxPwP0 := 0x20#8
  rxPwP1 := 0x20#8
  rxPwP2 := 0x20#8
  rxPwP3 := 0x20#8
  rxPwP4 := 0x20#8
  rxPwP5 := 0x20#8 }

/-- The block of the start state S0. -/
def b0 : Block := { Block.reset with ready := true, featureLocked := false, reg0 := bank0S0 }

/-- A state with a given block and no transaction open. -/
def idle (b : Block) : State := { State.reset with blk := b }

/-- A state whose next input is `e`. -/
def facing (e : Event) (b : Block) : State := { idle b with agenda := [e] }

/-- An open transaction of `bytes` and `bit` more bits. -/
def txnOf (b : Block) (bytes : List Byte) (bit : Nat) : Txn :=
  { snap := { b with csn := false }, bytes := bytes, bit := bit }

/-- A state in which the CSN rising edge that ends that transaction comes next. -/
def ending (b : Block) (bytes : List Byte) (bit : Nat) : State :=
  { State.reset with
    blk := { b with csn := false }
    txn := some (txnOf b bytes bit)
    agenda := [.csn true] }

/-- What a test looks at in the next state. -/
def look {α : Type} (o : Host.Outcome State Fault Refusal) (f : State → α) : Option α :=
  match o with
  | .next s => some (f s)
  | .fault _ => none
  | .refused _ => none

/-- The codes of the refusals recorded after one step. -/
def codes (o : Host.Outcome State Fault Refusal) : Option (List RefusalCode) :=
  look o (fun u => u.blk.refusals.map RefusalRecord.code)

def tx (data : List Byte) : TxEntry := { data := data, ack := none }

def rx (p : Pipe) (data : List Byte) : RxEntry := { pipe := p, data := data }

def three : List TxEntry := [tx [0x01#8], tx [0x02#8], tx [0x03#8]]

/-- The block in Receive mode with EN_RXADDR 0x03 and RX_PW_P1 4 (vector V-MODE-8). -/
def bReceive : Block := { b0 with ce := true, reg0 := { bank0S0 with config := 0x0B#8, rxPwP1 := 0x04#8 } }

def bTransmit : Block := { b0 with ce := true }

def bLocked : Block := { b0 with featureLocked := true }

def bBank1 : Block := { b0 with bank := .bank1 }

def bHead : Block := { b0 with rxf := [rx 2 [0x11#8, 0x22#8, 0x33#8]] }

/-! Well-formedness and decoding -/

/-- Rule R107: pipe operands 6 and 7 are not legal, 5 is. -/
theorem test_wf_pipe :
    (Instr.wTxPayloadAck 6#3 []).wf = false ∧ (Instr.wTxPayloadAck 7#3 []).wf = false
      ∧ (Instr.wTxPayloadAck 5#3 []).wf = true := by decide

/-- The ill-formed pipe operand is refused as a reserved command (rules R103 and R108). -/
theorem test_ill_formed_pipe_is_refused :
    codes (exec (.wTxPayloadAck 6#3 [0x01#8]) (idle b0)) = some [.rf02ReservedCommand] := by decide

/-- 000aaaaa with address 11101 (rule R101). -/
theorem test_decode_r_register :
    decodeFrame 0b00011101#8 [0x00#8] = .ok (.rRegister 0b11101#5 [0x00#8]) := by decide

/-- 001aaaaa with address 00111 (rule R101). -/
theorem test_decode_w_register :
    decodeFrame 0b00100111#8 [0x70#8] = .ok (.wRegister 0b00111#5 [0x70#8]) := by decide

/-- 01010000 01010011 (rule R104). -/
theorem test_decode_activate_bank :
    decodeFrame 0b01010000#8 [0b01010011#8] = .ok .activateBank := by decide

/-- 01010000 01110011 (rule R104). -/
theorem test_decode_activate_feature :
    decodeFrame 0b01010000#8 [0b01110011#8] = .ok .activateFeature := by decide

/-- 01100000 (rule R102). -/
theorem test_decode_r_rx_pl_wid :
    decodeFrame 0b01100000#8 [0x00#8] = .ok (.rRxPlWid [0x00#8]) := by decide

/-- 01100001 (rule R102). -/
theorem test_decode_r_rx_payload :
    decodeFrame 0b01100001#8 [0x00#8] = .ok (.rRxPayload [0x00#8]) := by decide

/-- 10100000 (rule R102). -/
theorem test_decode_w_tx_payload :
    decodeFrame 0b10100000#8 [0x48#8, 0x69#8] = .ok (.wTxPayload [0x48#8, 0x69#8]) := by decide

/-- 10101ppp with pipe 5 (rule R103). -/
theorem test_decode_w_tx_payload_ack :
    decodeFrame 0b10101101#8 [0x01#8] = .ok (.wTxPayloadAck 5#3 [0x01#8]) := by decide

/-- 11100001 and 11100010 (rule R102). -/
theorem test_decode_flushes :
    decodeFrame 0b11100001#8 [] = .ok (.flushTx []) ∧ decodeFrame 0b11100010#8 [] = .ok (.flushRx []) := by
  decide

/-- Vector V-TXN-7: the reserved bytes that stand at the ends of the ranges of rule R105. -/
theorem test_reserved_bytes :
    [0x40#8, 0x4F#8, 0x51#8, 0x5F#8, 0x62#8, 0x9F#8, 0xA1#8, 0xA7#8, 0xAE#8, 0xAF#8, 0xB0#8, 0xE0#8,
      0xE3#8, 0xFF#8].all (fun c => decodeByte c == .reserved c) = true := by decide

/-- The bytes at the ends of the ranges of rule R105 that are commands. -/
theorem test_command_range_ends :
    decodeByte 0x00#8 = .rRegister 0x00#5 ∧ decodeByte 0x1F#8 = .rRegister 0x1F#5
      ∧ decodeByte 0x20#8 = .wRegister 0x00#5 ∧ decodeByte 0x3F#8 = .wRegister 0x1F#5
      ∧ decodeByte 0x50#8 = .activate ∧ decodeByte 0x60#8 = .rRxPlWid
      ∧ decodeByte 0x61#8 = .rRxPayload ∧ decodeByte 0xA0#8 = .wTxPayload
      ∧ decodeByte 0xA8#8 = .wTxPayloadAck 0#3 ∧ decodeByte 0xAD#8 = .wTxPayloadAck 5#3
      ∧ decodeByte 0xE1#8 = .flushTx ∧ decodeByte 0xE2#8 = .flushRx := by decide

/-- The words of the opcode table: its ACT words start with the first wire byte. -/
theorem test_table_words :
    decodeTableWord 16 0x5053 = some .activateBank ∧ decodeTableWord 16 0x5073 = some .activateFeature
      ∧ decodeTableWord 8 0x00 = some (.rRegister 0#5 [0x00#8])
      ∧ decodeTableWord 8 0xAC = some (.wTxPayloadAck 4#3 [0x00#8])
      ∧ decodeTableWord 8 0x40 = none := by decide

/-- The placed word is the instruction that the next step runs. -/
theorem test_placed_word_runs :
    look (step (State.reset.withFetchWord 16 0x5053)) (fun u => u.blk.bank) = some .bank1 := by decide

/-- The reference parameters meet the constraints of rules R9, R10 and R44. -/
theorem test_reference_parameters : paramsOk refParams = true := by decide

/-! Transactions -/

/-- Vectors V-TXN-3 and V-EXC-7: RF01 before everything else. -/
theorem test_partial_byte :
    codes (step (ending { b0 with irq := 0b111#3 } [0x27#8, 0x70#8] 3)) = some [.rf01PartialByte]
      ∧ codes (step (ending b0 [0x40#8] 3)) = some [.rf01PartialByte] := by decide

/-- Vectors V-TXN-5 and V-TXN-6: a block that is not ready refuses a partial byte only. -/
theorem test_not_ready :
    codes (step (ending { b0 with ready := false } [0x40#8] 0)) = some []
      ∧ codes (step (ending { b0 with ready := false } [] 3)) = some [.rf01PartialByte] := by decide

/-- Rules R131 and R139: a CSN falling edge opens a transaction with no byte in it. -/
theorem test_csn_fall :
    look (step (facing (.csn false) b0)) (fun u => u.txn.map (fun t => (t.bytes, t.bit)))
      = some (some ([], 0)) := by decide

/-- Rule R132: the eighth rising edge completes the byte, most significant bit first. -/
theorem test_eighth_bit :
    look (step { ending b0 [0x27#8] 7 with insr := 0x38#8, agenda := [.sck true] })
      (fun u => u.txn.map (fun t => (t.bytes, t.bit))) = some (some ([0x27#8, 0x70#8], 0)) := by decide

/-- Rule R134: MISO is not driven once CSN is high. -/
theorem test_miso_released :
    look (step (ending b0 [0x07#8, 0x00#8] 0)) (fun u => (u.miso, u.txn.isNone)) = some (none, true) := by
  decide

/-! Reading and writing registers -/

/-- Section 0 of 95_test_vectors.md and vector V-ACT-1: STATUS of S0 is 0x0E, and 0x8E in bank 1. -/
theorem test_status : ∀ d : Byte, b0.status d = 0x0E#8 ∧ bBank1.status d = 0x8E#8 := by decide

/-- Vectors V-REG-18 and V-FIFO-12: the flags, the bank and the head entry's pipe in STATUS. -/
theorem test_status_fields : ∀ d : Byte,
    readByte { bBank1 with irq := 0b100#3 } 0x07#5 0 d = 0xCE#8
      ∧ readByte { b0 with rxf := [rx 5 [0x55#8]] } 0x07#5 0 d = 0x0A#8
      ∧ readByte { b0 with txf := three } 0x07#5 0 d = 0x0F#8 := by decide

/-- Vectors V-REG-16, V-REG-20, V-REG-21 and V-REG-26: what reads back as a draw, and the locked zero. -/
theorem test_read_back : ∀ d : Byte,
    readByte bBank1 0x04#5 0 d = d ∧ readByte bLocked 0x1D#5 0 d = 0x00#8 ∧ readByte bLocked 0x1C#5 0 d = d
      ∧ readByte b0 0x08#5 0 d = d ∧ readByte b0 0x0A#5 1 d = 0x43#8 ∧ readByte b0 0x0A#5 5 d = d := by
  decide

/-- Vector V-REG-3: RF_CH is written. -/
theorem test_w_register :
    look (exec (.wRegister 0x05#5 [0x28#8]) (idle b0)) (fun u => u.blk.reg0.rfCh) = some 0x28#8 := by
  decide

/-- Vector V-REG-6: the first byte sent is byte 0. -/
theorem test_w_register_order :
    look (exec (.wRegister 0x0A#5 [0x01#8, 0x02#8, 0x03#8, 0x04#8, 0x05#8]) (idle b0))
      (fun u => u.blk.reg0.rxAddrP0) = some ⟨0x01#8, 0x02#8, 0x03#8, 0x04#8, 0x05#8⟩ := by decide

/-- Vectors V-REG-5, V-REG-10, V-EXC-4 and V-EXC-5: the refusals of a write and their order. -/
theorem test_w_register_refusals :
    codes (exec (.wRegister 0x05#5 [0x01#8, 0x02#8]) (idle b0)) = some [.rf04TooManyBytes]
      ∧ codes (exec (.wRegister 0x18#5 [0x00#8]) (idle b0)) = some [.rf03UnmappedWrite]
      ∧ codes (exec (.wRegister 0x1C#5 [0x01#8, 0x02#8]) (idle bLocked)) = some [.rf08FeatureLocked]
      ∧ codes (exec (.wRegister 0x00#5 [0x0B#8, 0x00#8]) (idle bTransmit)) = some [.rf04TooManyBytes] := by
  decide

/-- Vector V-REG-11: the flag written as 1 is cleared. -/
theorem test_status_write :
    look (exec (.wRegister 0x07#5 [0x10#8]) (idle { b0 with irq := 0b101#3 })) (fun u => u.blk.irq)
      = some 0b100#3 := by decide

/-- Vectors V-REG-24, V-REG-25 and V-MODE-4: RF12, an admitted write, and power-off. -/
theorem test_config_write :
    codes (exec (.wRegister 0x00#5 [0x0B#8]) (idle bTransmit)) = some [.rf12ModeChangeCeHigh]
      ∧ look (exec (.wRegister 0x00#5 [0x0E#8]) (idle bTransmit)) (fun u => u.blk.reg0.config)
          = some 0x0E#8
      ∧ look (exec (.wRegister 0x00#5 [0x09#8]) (idle { bReceive with ce := false }))
          (fun u => (u.blk.mode, u.blk.reg0.config)) = some (.powerOff, 0x09#8) := by decide

/-- Vectors V-REG-17 and V-REG-19: bank-1 writes, to address 0x07 and above 0x0E. -/
theorem test_bank1_write :
    look (exec (.wRegister 0x07#5 [0x70#8, 0x00#8, 0x00#8, 0x00#8]) (idle { bBank1 with irq := 0b100#3 }))
        (fun u => (u.blk.reg1.r07, u.blk.irq)) = some (⟨0x70#8, 0x00#8, 0x00#8, 0x00#8⟩, 0b100#3)
      ∧ codes (exec (.wRegister 0x0F#5 [0x00#8]) (idle bBank1)) = some [.rf03UnmappedWrite]
      ∧ codes (exec (.wRegister 0x04#5 [0#8, 0#8, 0#8, 0#8, 0#8]) (idle bBank1))
          = some [.rf04TooManyBytes] := by decide

/-- Vectors V-REG-20 and V-REG-22: FEATURE, locked and unlocked. -/
theorem test_feature_write :
    look (exec (.wRegister 0x1D#5 [0x01#8]) (idle bLocked)) (fun u => (u.blk.reg0.feature, u.blk.refused))
        = some (0x00#8, false)
      ∧ look (exec (.wRegister 0x1D#5 [0x04#8]) (idle b0)) (fun u => u.blk.reg0.feature)
          = some 0x04#8 := by decide

/-! Activation -/

/-- Vectors V-ACT-1 and V-ACT-8: the bank toggles; an unlock leaves it. -/
theorem test_activate :
    look (exec .activateBank (idle b0)) (fun u => u.blk.bank) = some .bank1
      ∧ look (exec .activateFeature (idle { bLocked with bank := .bank1 }))
          (fun u => (u.blk.featureLocked, u.blk.bank)) = some (false, .bank1) := by decide

/-- Vectors V-ACT-3 to V-ACT-5, V-ACT-7 and V-EXC-6. -/
theorem test_activate_refusals :
    codes (step (ending b0 [0x50#8] 0)) = some [.rf06ActivateCount]
      ∧ codes (step (ending b0 [0x50#8, 0x53#8, 0x53#8] 0)) = some [.rf06ActivateCount]
      ∧ codes (step (ending b0 [0x50#8, 0x54#8] 0)) = some [.rf05ActivateArgument]
      ∧ codes (step (ending b0 [0x50#8, 0x00#8, 0x00#8] 0)) = some [.rf06ActivateCount]
      ∧ codes (exec .activateFeature (idle b0)) = some [.rf07AlreadyUnlocked] := by decide

/-! Payloads and FIFOs -/

/-- Vector V-FIFO-1. -/
theorem test_w_tx_payload :
    look (exec (.wTxPayload [0x48#8, 0x69#8]) (idle b0)) (fun u => u.blk.txf)
      = some [tx [0x48#8, 0x69#8]] := by decide

/-- Vectors V-FIFO-3, V-FIFO-4, V-EXC-3 and V-FIFO-8. -/
theorem test_w_tx_payload_refusals :
    codes (exec (.wTxPayload (List.replicate 33 0x00#8)) (idle b0)) = some [.rf10PayloadLength]
      ∧ codes (exec (.wTxPayload [0x01#8]) (idle { b0 with txf := three })) = some [.rf09TxFifoFull]
      ∧ codes (exec (.wTxPayload []) (idle { b0 with txf := three })) = some [.rf10PayloadLength]
      ∧ codes (exec (.wTxPayload [0x01#8]) (idle bBank1)) = some [.rf11WrongBank] := by decide

/-- Vector V-FIFO-5. -/
theorem test_w_tx_payload_ack :
    look (exec (.wTxPayloadAck 2#3 [0x01#8, 0x02#8, 0x03#8]) (idle b0)) (fun u => u.blk.txf)
      = some [{ data := [0x01#8, 0x02#8, 0x03#8], ack := some 2 }] := by decide

/-- Vectors V-EXC-1 and V-EXC-2. -/
theorem test_w_tx_payload_ack_refusals :
    codes (exec (.wTxPayloadAck 0#3 []) (idle { bLocked with bank := .bank1 })) = some [.rf11WrongBank]
      ∧ codes (exec (.wTxPayloadAck 0#3 []) (idle bLocked)) = some [.rf08FeatureLocked] := by decide

/-- Vectors V-FIFO-9 and V-FIFO-15: the head entry's count, and the lock. -/
theorem test_r_rx_pl_wid :
    look (exec (.rRxPlWid [0x00#8]) (idle bHead)) (fun u => u.response[1]?) = some (some 0x03#8)
      ∧ codes (exec (.rRxPlWid [0x00#8]) (idle { bHead with featureLocked := true }))
          = some [.rf08FeatureLocked] := by decide

/-- Vector V-FIFO-10. -/
theorem test_r_rx_payload :
    look (exec (.rRxPayload [0x00#8]) (idle bHead)) (fun u => (u.response[1]?, u.blk.rxf))
      = some (some 0x11#8, [rx 2 [0x22#8, 0x33#8]]) := by decide

/-- Vectors V-FIFO-12 and V-FIFO-14: the next entry is not touched; WholePayloadAtEnd. -/
theorem test_r_rx_payload_pops :
    look (exec (.rRxPayload [0#8, 0#8, 0#8])
          (idle { b0 with rxf := [rx 2 [0x11#8], rx 5 [0x55#8, 0x66#8]] }))
        (fun u => (u.response[1]?, u.blk.rxf)) = some (some 0x11#8, [rx 5 [0x55#8, 0x66#8]])
      ∧ look (exec (.rRxPayload [0x00#8]) (idle { bHead with
          cfg := { refParams with rxPop := .wholePayloadAtEnd } })) (fun u => u.blk.rxf) = some [] := by
  decide

/-- Vector V-FIFO-16. -/
theorem test_flush_tx :
    look (exec (.flushTx [0x00#8]) (idle { b0 with txf := three, irq := 0b011#3 }))
      (fun u => (u.blk.txf, u.blk.irq)) = some ([], 0b011#3) := by decide

/-- Vector V-FIFO-18. -/
theorem test_flush_rx :
    look (exec (.flushRx [0x00#8]) (idle { b0 with rxf := [rx 0 [0xAA#8]], irq := 0b100#3 }))
      (fun u => (u.blk.rxf, u.blk.irq)) = some ([], 0b100#3) := by decide

/-! Modes and the radio -/

/-- Vectors V-MODE-1 and V-MODE-2. -/
theorem test_mode :
    { bTransmit with reg0 := { bank0S0 with config := 0x08#8 } }.mode = .powerOff ∧ b0.mode = .standby
      ∧ bReceive.mode = .receive ∧ bTransmit.mode = .transmit := by decide

/-- Vectors V-MODE-8 and V-MODE-9. -/
theorem test_rx_deliver :
    look (step (facing (.rxDeliver 1 [1#8, 2#8, 3#8, 4#8]) bReceive)) (fun u => (u.blk.rxf, u.blk.irq))
        = some ([rx 1 [1#8, 2#8, 3#8, 4#8]], 0b100#3)
      ∧ look (step (facing (.rxDeliver 1 [1#8, 2#8, 3#8]) bReceive)) (fun u => u.blk.rxf)
          = some [] := by decide

/-- Vectors V-MODE-12 and V-MODE-13: dynamic payload needs the lock open. -/
theorem test_rx_deliver_dynamic :
    let b := { bReceive with reg0 := { bReceive.reg0 with dynpd := 0x02#8, feature := 0x04#8 } }
    look (step (facing (.rxDeliver 1 [9#8]) b)) (fun u => u.blk.rxf) = some [rx 1 [9#8]]
      ∧ look (step (facing (.rxDeliver 1 [9#8]) { b with featureLocked := true })) (fun u => u.blk.rxf)
          = some [] := by decide

/-- Vectors V-MODE-15, V-MODE-16 and V-MODE-18. -/
theorem test_transmit_steps :
    look (step (facing .txSent { bTransmit with txf := [tx [1#8], tx [2#8]] }))
        (fun u => (u.blk.txf, u.blk.irq)) = some ([tx [2#8]], 0b010#3)
      ∧ look (step (facing .txMaxRt { bTransmit with txf := three })) (fun u => (u.blk.txf, u.blk.irq))
          = some (three, 0b001#3)
      ∧ look (step (facing .txSent { b0 with txf := three })) (fun u => (u.blk.txf, u.blk.irq))
          = some (three, 0b000#3) := by decide

/-- Rule R291. -/
theorem test_boot_done :
    look (step (facing .bootDone Block.reset)) (fun u => u.blk.ready) = some true := by decide

/-- Rules R273 and R291: the run from a block that meets BOOT_DONE with no transaction open becomes ready, and
a ready block's run is ready; one whose BOOT_DONE comes inside a transaction does not become ready. -/
theorem test_boot_eventually_ready :
    BootEventuallyReady (facing .bootDone Block.reset) ∧ BootEventuallyReady (idle b0)
      ∧ ¬BootEventuallyReady { State.reset with agenda := [.csn false, .bootDone, .csn true] } := by
  refine ⟨⟨1, _, rfl, rfl⟩, ⟨0, _, rfl, rfl⟩, ?_⟩
  rintro ⟨k, u, hu, hr⟩
  have h3 : ∃ v, Host.Core.run core 3 { State.reset with agenda := [.csn false, .bootDone, .csn true] } = .next v
      ∧ v.agenda = [] ∧ v.blk.ready = false := ⟨_, rfl, rfl, rfl⟩
  obtain ⟨v, hv, hva, hvr⟩ := h3
  obtain h | h | h | ⟨m, rfl⟩ : k = 0 ∨ k = 1 ∨ k = 2 ∨ ∃ m, k = 3 + m := by
    by_cases hk : 3 ≤ k
    · exact .inr (.inr (.inr ⟨k - 3, by omega⟩))
    · omega
  iterate 3
    subst h
    cases hu
    cases hr
  rw [run_add_of_run m hv, run_of_idle m hva] at hu
  cases hu
  rw [hvr] at hr
  cases hr

/-- Rule R294 and program P1: a poll's three transactions, and the first bytes of the bring-up's writes. -/
theorem test_bring_up_shape :
    bank1Defaults.map (fun i => (encode i).length) = List.replicate 14 5 ++ [12]
      ∧ (writesOf rfm75Ref bank0Writes).map (fun i => (encode i).length)
          = List.replicate 10 2 ++ [6, 6, 6] ++ List.replicate 12 2
      ∧ encode (wrN 0x04#5 b1r4Toggled.toList) = 0x24#8 :: b1r4Toggled.toList := by
  refine ⟨rfl, rfl, rfl⟩

/-- The premises of bringUp_leaves_broughtUp and transact_write_bank0 are met. -/
theorem test_bring_up_premises :
    layoutOk bBank1.cfg.layout = true ∧ bBank1.bank = .bank1 ∧ bBank1.ce = false
      ∧ (0x01#8 = 0x00#8 ↔ bBank1.featureLocked = true) := by decide

/-- Rule R37 and vector W3: SETUP_AW 0x03 is a width of 5; rule R46 and vector W9: channel 83; rule R47 with
log entry 33: pipe 2 replaces byte 0 of pipe 1's address. -/
theorem test_fields :
    b0.addrWidth = 5 ∧ { b0 with reg0 := { bank0S0 with rfCh := 0x53#8 } }.carrierMHz = some 2483
      ∧ b0.rxAddress 2 = [0xC3#8, 0x38#8, 0x37#8, 0x36#8, 0xC2#8] := by decide

/-! Witnesses: states and operands that meet the hypotheses of each obligation, clause by clause -/

theorem test_witness_decode_of_encode :
    (Instr.wTxPayloadAck 0#3 []).wf = true ∧ (Instr.wTxPayloadAck 5#3 [0x41#8]).wf = true
      ∧ Instr.activateBank.wf = true := by decide

theorem test_witness_encode_of_decode :
    decodeFrame 0xAD#8 [] = .ok (.wTxPayloadAck 5#3 []) ∧ decodeFrame 0x00#8 [] = .ok (.rRegister 0#5 [])
      ∧ decodeFrame 0x50#8 [0x73#8] = .ok .activateFeature := by decide

/-- StepRunsTheDecodedInstruction. -/
theorem test_witness_step_runs :
    EndsFrame (ending b0 [0x27#8, 0x70#8] 0) (txnOf b0 [0x27#8, 0x70#8] 0) []
      ∧ (ending b0 [0x27#8, 0x70#8] 0).blk.ready = true
      ∧ decodeFrame 0x27#8 [0x70#8] = .ok (.wRegister 0x07#5 [0x70#8]) :=
  ⟨⟨rfl, rfl, rfl⟩, by decide⟩

/-- ReservedEncodingsAreRefused: both clauses, at the ends of their ranges. -/
theorem test_witness_reserved :
    EndsFrame (ending b0 [0xFF#8] 0) (txnOf b0 [0xFF#8] 0) [] ∧ decodeByte 0xFF#8 = .reserved 0xFF#8
      ∧ EndsFrame (ending b0 [0x50#8, 0x54#8] 0) (txnOf b0 [0x50#8, 0x54#8] 0) []
      ∧ EndsFrame (ending b0 [0x50#8, 0x72#8] 0) (txnOf b0 [0x50#8, 0x72#8] 0) []
      ∧ b0.ready = true :=
  ⟨⟨rfl, rfl, rfl⟩, by decide, ⟨rfl, rfl, rfl⟩, ⟨rfl, rfl, rfl⟩, rfl⟩

/-- ActivateCountIsChecked: no argument, and two. -/
theorem test_witness_activate_count :
    EndsFrame (ending b0 [0x50#8] 0) (txnOf b0 [0x50#8] 0) []
      ∧ EndsFrame (ending b0 [0x50#8, 0x53#8, 0x53#8] 0) (txnOf b0 [0x50#8, 0x53#8, 0x53#8] 0) [] :=
  ⟨⟨rfl, rfl, rfl⟩, rfl, rfl, rfl⟩

/-- PartialByteIsRefused: 1 and 7 bits. -/
theorem test_witness_partial_byte :
    EndsFrame (ending b0 [] 1) (txnOf b0 [] 1) [] ∧ EndsFrame (ending b0 [] 7) (txnOf b0 [] 7) []
      ∧ (txnOf b0 [] 1).bit ≠ 0 ∧ (txnOf b0 [] 7).bit ≠ 0 :=
  ⟨⟨rfl, rfl, rfl⟩, ⟨rfl, rfl, rfl⟩, by decide⟩

/-- NotReadyTransactionHasNoEffect: both clauses of its second part. -/
theorem test_witness_not_ready :
    EndsFrame (ending Block.reset [0x27#8] 0) (txnOf Block.reset [0x27#8] 0) []
      ∧ EndsFrame (ending Block.reset [0x27#8] 1) (txnOf Block.reset [0x27#8] 1) []
      ∧ Block.reset.ready = false :=
  ⟨⟨rfl, rfl, rfl⟩, ⟨rfl, rfl, rfl⟩, rfl⟩

/-- EmptyTransactionHasNoEffect: both clauses. -/
theorem test_witness_empty_transaction :
    let s := { idle b0 with agenda := [.csn false, .csn true] }
    (EndsFrame (ending b0 [] 0) (txnOf b0 [] 0) [] ∧ (txnOf b0 [] 0).bit = 0 ∧ (txnOf b0 [] 0).bytes = [])
      ∧ s.blk.csn = true ∧ s.txn = none ∧ s.agenda = [.csn false, .csn true] :=
  ⟨⟨⟨rfl, rfl, rfl⟩, rfl, rfl⟩, rfl, rfl, rfl⟩

/-- A transaction just opened, with a byte on the bus. -/
def opened (b : Block) (v : Byte) : State := { csnFall (idle b) with agenda := byteEvents v }

/-- BusBitsAssembleTheByte and MisoShowsTheOutputByteInOrder, whose k is 0 to 7. -/
theorem test_witness_bus_bits :
    let s := opened b0 0x27#8
    (∃ t, s.txn = some t ∧ t.bit = 0) ∧ s.sck = false ∧ s.miso = some (s.outsr.getLsbD 7)
      ∧ s.agenda = byteEvents 0x27#8 ++ [] :=
  ⟨⟨_, rfl, rfl⟩, rfl, rfl, rfl⟩

/-- PinLevelsOfAFrameRunTheInstruction. -/
theorem test_witness_pin_levels :
    let s := { idle b0 with agenda := frameEvents (encode .activateBank) }
    Instr.activateBank.wf = true ∧ s.blk.ready = true ∧ s.blk.csn = true ∧ s.txn = none ∧ s.sck = false
      ∧ s.agenda = frameEvents (encode .activateBank) ++ [] :=
  ⟨rfl, rfl, rfl, rfl, rfl, rfl⟩

/-- StepKeepsTheInvariant: with no transaction open, and with one open. -/
theorem test_witness_invariant :
    (facing (.csn false) b0).Inv ∧ (csnFall (idle b0)).Inv
      ∧ ∃ u, step (facing (.csn false) b0) = .next u := by
  refine ⟨⟨by decide, fun _ => rfl, fun t h => (nomatch h)⟩, ⟨by decide, fun h => (nomatch h), ?_⟩, _, rfl⟩
  rintro t ⟨⟩
  exact ⟨rfl, rfl, by decide, rfl, rfl⟩

/-- StepKeepsTheParameters. -/
theorem test_witness_step : ∃ u, step (facing (.ce true) b0) = .next u := ⟨_, rfl⟩

/-- RefusedMarkIsSticky: a refusal that is added, and a mark that stands. -/
theorem test_witness_refused_mark :
    (∃ u, step (ending b0 [0x40#8] 0) = .next u
      ∧ (ending b0 [0x40#8] 0).agenda.head? ≠ some .powerOn
      ∧ u.blk.refusals ≠ (ending b0 [0x40#8] 0).blk.refusals)
    ∧ ∃ u, step (facing (.ce true) { b0 with refused := true }) = .next u
      ∧ (facing (.ce true) { b0 with refused := true }).blk.refused = true :=
  ⟨⟨_, rfl, by decide, by decide⟩, _, rfl, rfl⟩

/-- RefusalChangesNothingElse. -/
theorem test_witness_refusal :
    ∃ u, exec .activateFeature (idle b0) = .next u ∧ u.blk.refusals ≠ (idle b0).blk.refusals :=
  ⟨_, rfl, by decide⟩

/-- OnlyActivateChangesTheBank. -/
theorem test_witness_bank_changes :
    ∃ u, step (ending b0 [0x50#8, 0x53#8] 0) = .next u
      ∧ u.blk.bank ≠ (ending b0 [0x50#8, 0x53#8] 0).blk.bank :=
  ⟨_, rfl, by decide⟩

/-- FeatureLockIsLeftForGood: its clauses; the data of the first is one byte or none. -/
theorem test_witness_lock :
    (idle bLocked).blk.bank = .bank0 ∧ (idle bLocked).blk.featureLocked = true
      ∧ ([0x01#8] : List Byte).length ≤ 1 ∧ ([] : List Byte).length ≤ 1
      ∧ (facing (.ce true) b0).blk.featureLocked = false
      ∧ (facing (.ce true) b0).agenda.head? ≠ some .powerOn
      ∧ ∃ u, step (facing (.ce true) b0) = .next u :=
  ⟨rfl, rfl, by decide, by decide, rfl, by decide, _, rfl⟩

/-- OnlyTheRadioSetsFlags: a STATUS write in bank 0, and a step in which a flag stays set. -/
theorem test_witness_flags :
    (idle b0).blk.bank = .bank0
      ∧ ∃ u, step (ending { b0 with irq := 0b101#3 } [0x27#8, 0x10#8] 0) = .next u
        ∧ (ending { b0 with irq := 0b101#3 } [0x27#8, 0x10#8] 0).agenda.head? = some (.csn true)
        ∧ (Event.csn true).isRadio = false ∧ u.blk.irq.getLsbD 2 = true :=
  ⟨rfl, _, rfl, rfl, rfl, by decide⟩

/-- RadioWritesOnlyFlagsAndFifos. -/
theorem test_witness_radio :
    Event.txSent.isRadio = true ∧ Event.txMaxRt.isRadio = true ∧ (Event.rxDeliver 0 []).isRadio = true
      ∧ ∃ u, handle .txSent (idle { bTransmit with txf := three }) = .next u :=
  ⟨rfl, rfl, rfl, _, rfl⟩

/-- RadioIsIdleOutsideItsModes: its four cases. -/
theorem test_witness_radio_idle :
    Block.reset.ready = false ∧ (ending bTransmit [] 0).txn ≠ none
      ∧ { b0 with reg0 := { bank0S0 with config := 0x08#8 } }.mode = .powerOff ∧ b0.mode = .standby := by
  decide

/-- ModeChangesOnlyByCeOrConfig and ModeChangeKeepsTheRest: by CE, and by a CONFIG write. -/
theorem test_witness_mode_changes :
    (∃ u, step (facing (.ce true) b0) = .next u ∧ u.blk.mode ≠ (facing (.ce true) b0).blk.mode
      ∧ (facing (.ce true) b0).agenda.head? ≠ some .powerOn ∧ u.blk.mode ≠ .powerOff)
    ∧ ∃ u, step (ending b0 [0x20#8, 0x08#8] 0) = .next u
      ∧ u.blk.mode ≠ (ending b0 [0x20#8, 0x08#8] 0).blk.mode
      ∧ (ending b0 [0x20#8, 0x08#8] 0).agenda.head? ≠ some .powerOn :=
  ⟨⟨_, rfl, by decide, by decide, by decide⟩, _, rfl, by decide, by decide⟩

/-- OnlyWRegisterChangesRegisters: a write in each bank. -/
theorem test_witness_registers_change :
    (∃ u, step (ending b0 [0x25#8, 0x28#8] 0) = .next u
      ∧ (ending b0 [0x25#8, 0x28#8] 0).agenda.head? ≠ some .powerOn
      ∧ u.blk.reg0 ≠ (ending b0 [0x25#8, 0x28#8] 0).blk.reg0)
    ∧ ∃ u, step (ending bBank1 [0x24#8, 0xD9#8, 0x9E#8, 0x86#8, 0x0B#8] 0) = .next u
      ∧ u.blk.reg1 ≠ (ending bBank1 [0x24#8, 0xD9#8, 0x9E#8, 0x86#8, 0x0B#8] 0).blk.reg1 :=
  ⟨⟨_, rfl, by decide, by decide⟩, _, rfl, by decide⟩

/-- Bank1StorageIsNeverObserved: two states that differ in bank-1 storage alone. -/
theorem test_witness_hidden_bank1 :
    let s := ending bBank1 [0x04#8, 0x00#8] 0
    let s' := ending { bBank1 with reg1 := { resetBank1 with r04 := ⟨1#8, 2#8, 3#8, 4#8⟩ } } [0x04#8, 0x00#8] 0
    s.hideReg1 = s'.hideReg1 ∧ s.blk.reg1 ≠ s'.blk.reg1 ∧ (∃ u, step s = .next u) ∧ ∃ u, step s' = .next u :=
  ⟨rfl, by decide, ⟨_, rfl⟩, _, rfl⟩

/-- The premises on what the output is computed from. -/
theorem test_witness_seen :
    (idle b0).seen.ready = true ∧ (ending b0 [0x07#8, 0x00#8] 0).seen.ready = true := by decide

/-- RRegisterReturnsTheRegister: the premises of each branch of MemReadByte, a locked plain register among
them; j may be 0, the last byte and the width. -/
theorem test_witness_read_branches :
    bBank1.bank = .bank1 ∧ 0x04#5 ≠ 0x07#5 ∧ b0.bank = .bank0 ∧ reg0At b0.cfg.layout 0x1F#5 = none
      ∧ bLocked.bank = .bank0 ∧ bLocked.featureLocked = true
      ∧ reg0At bLocked.cfg.layout 0x1C#5 = some .dynpd
      ∧ reg0At b0.cfg.layout 0x17#5 = some .auxStatus ∧ reg0At b0.cfg.layout 0x08#5 = some .u08
      ∧ reg0At b0.cfg.layout 0x09#5 = some .u09 ∧ reg0At bLocked.cfg.layout 0x0A#5 = some .rxAddrP0
      ∧ .rxAddrP0 ∉ [Reg0.status, .auxStatus, .u08, .u09] ∧ .rxAddrP0 ∉ [Reg0.feature, .dynpd]
      ∧ 4 < width0 .rxAddrP0 ∧ width0 .rxAddrP0 ≤ 5 := by decide

/-- StatusByteShowsItsFields, whose hypotheses are clauses of layoutOk, and ToggleFlipsStatusBit7Alone: both
admissible placings of the fields. -/
theorem test_witness_layouts :
    layoutOk rfm75Ref = true ∧ layoutOk { rfm75Ref with posRxPNo := 0, posTxFull := 3 } = true
      ∧ rfm75Ref.posRxPNo.val + 3 ≤ 4 ∧ rfm75Ref.posTxFull.val < rfm75Ref.posRxPNo.val := by decide

/-- WrittenBytesReadBack: the first byte of CONFIG, the last byte of an address, and a lock-gated one; an
address with the lock closed and CE high. -/
theorem test_witness_read_back :
    { bLocked with ce := true }.bank = .bank0 ∧ reg0At bLocked.cfg.layout 0x0A#5 = some .rxAddrP0
      ∧ ¬(Reg0.rxAddrP0 = .feature ∨ Reg0.rxAddrP0 = .dynpd) ∧ Reg0.rxAddrP0 ≠ .config
      ∧ b0.bank = .bank0 ∧ b0.featureLocked = false ∧ b0.ce = false
      ∧ reg0At b0.cfg.layout 0x00#5 = some .config ∧ reg0At b0.cfg.layout 0x0A#5 = some .rxAddrP0
      ∧ reg0At b0.cfg.layout 0x1C#5 = some .dynpd
      ∧ .config ∉ [Reg0.status, .auxStatus, .u08, .u09] ∧ readMaskOf b0.cfg .config = 0x00#8
      ∧ .rxAddrP0 ∉ [Reg0.status, .auxStatus, .u08, .u09] ∧ readMaskOf b0.cfg .rxAddrP0 = 0x00#8
      ∧ .dynpd ∉ [Reg0.status, .auxStatus, .u08, .u09] ∧ readMaskOf b0.cfg .dynpd = 0x00#8
      ∧ [0x0B#8].length ≤ width0 .config ∧ [0x0B#8][0]? = some 0x0B#8
      ∧ [1#8, 2#8, 3#8, 4#8, 5#8].length ≤ width0 .rxAddrP0
      ∧ [1#8, 2#8, 3#8, 4#8, 5#8][4]? = some 5#8 := by decide

/-- PlainRegisterWriteStoresTheData: its clauses at 0, 1, the width, and one more. -/
theorem test_witness_plain_write :
    b0.bank = .bank0 ∧ reg0At b0.cfg.layout 0x10#5 = some .txAddr ∧ .txAddr ∈ plainReg0
      ∧ reg0At b0.cfg.layout 0x16#5 = some .rxPwP5 ∧ .rxPwP5 ∈ plainReg0
      ∧ width0 .txAddr = 5 ∧ width0 .rxPwP5 = 1
      ∧ width0 .txAddr < (List.replicate 6 0#8).length ∧ (List.replicate 5 0#8).length ≤ width0 .txAddr := by
  decide

/-- Bank1WriteReachesBank1Storage: addresses 0x0E and 0x0F, lengths at 1, the width, and one more. -/
theorem test_witness_bank1_write :
    bBank1.bank = .bank1 ∧ 0x0E < (0x0F#5).toNat ∧ (0x0E#5).toNat ≤ 0x0E ∧ (0x00#5).toNat ≤ 0x0E
      ∧ reg1At 0x0E#5 = some .r0E ∧ width1 .r0E = 11 ∧ reg1At 0x00#5 = some .r00 ∧ width1 .r00 = 4
      ∧ width1 .r0E < (List.replicate 12 0#8).length ∧ (List.replicate 11 0#8).length ≤ width1 .r0E := by
  decide

/-- UnmappedAddressesAreDrawnAndRefused: one address in each bank. -/
theorem test_witness_unmapped :
    b0.bank = .bank0 ∧ reg0At b0.cfg.layout 0x18#5 = none ∧ bBank1.bank = .bank1 ∧ 0x0F ≤ (0x0F#5).toNat
      ∧ 0x0F ≤ (0x1F#5).toNat ∧ 0x06#5 ≠ 0x07#5 ∧ 0x08#5 ≠ 0x07#5 := by decide

/-- ConfigWriteChangesTheMode and PowerOffFifosAreWellFormed: CE high with a change, a write with neither
a refusal nor a power-off, and a power-off. -/
theorem test_witness_config_write :
    reg0At b0.cfg.layout 0x00#5 = some .config
      ∧ (bTransmit.ce = true ∧ (0x0B#8).getLsbD 0 ≠ bTransmit.reg0.config.getLsbD 0)
      ∧ (bTransmit.ce = true ∧ (0x0E#8).getLsbD 1 = bTransmit.reg0.config.getLsbD 1
          ∧ (0x0E#8).getLsbD 0 = bTransmit.reg0.config.getLsbD 0)
      ∧ (b0.ce = false ∧ b0.reg0.config.getLsbD 1 = true ∧ (0x08#8).getLsbD 1 = false)
      ∧ b0.cfg.layout.posPwrUp = 1 ∧ b0.cfg.layout.posPrimRx = 0 := by decide

/-- AuxStatusWriteMayEmptyFifos and DynpdWriteFollowsTheLock: the addresses, and both lock states. -/
theorem test_witness_aux_dynpd :
    b0.bank = .bank0 ∧ reg0At b0.cfg.layout 0x17#5 = some .auxStatus
      ∧ reg0At b0.cfg.layout 0x1C#5 = some .dynpd ∧ b0.featureLocked = false
      ∧ bLocked.bank = .bank0 ∧ bLocked.featureLocked = true ∧ reg0At bLocked.cfg.layout 0x1C#5 = some .dynpd
      ∧ readMaskOf b0.cfg .feature = 0x00#8 := by decide

/-- ActivateBankTogglesTheBank: both banks, and two issues; ActivateFeatureUnlocks: both lock states. -/
theorem test_witness_activate :
    (idle b0).blk.bank = .bank0 ∧ (idle bBank1).blk.bank = .bank1
      ∧ (idle bLocked).blk.featureLocked = true ∧ (idle b0).blk.featureLocked = false
      ∧ ∃ u v, exec .activateBank (idle b0) = .next u ∧ exec .activateBank u = .next v :=
  ⟨rfl, rfl, rfl, rfl, _, _, rfl, rfl⟩

/-- The payload writes: one and 32 bytes into a FIFO with room, 0 and 33 bytes, and a full FIFO. -/
theorem test_witness_payload_write :
    b0.bank = .bank0 ∧ b0.featureLocked = false ∧ 1 ≤ [0x41#8].length
      ∧ (List.replicate 32 0#8).length ≤ 32 ∧ ([] : List Byte).length = 0
      ∧ 32 < (List.replicate 33 0#8).length
      ∧ { b0 with txf := [tx [1#8], tx [2#8]] }.txf.length ≠ b0.cfg.txDepth
      ∧ { b0 with txf := three }.txf.length = b0.cfg.txDepth
      ∧ 6 ≤ (6#3).toNat ∧ 6 ≤ (7#3).toNat := by decide

/-- The payload reads: an empty FIFO, a read shorter than the head entry, one of its length, and j at both
ends; PerByte and WholePayloadAtEnd. -/
theorem test_witness_payload_read :
    bHead.bank = .bank0 ∧ bHead.featureLocked = false ∧ bHead.rxf = rx 2 [0x11#8, 0x22#8, 0x33#8] :: []
      ∧ b0.rxf = [] ∧ bHead.cfg.rxPop = .perByte ∧ [0#8, 0#8].length < [0x11#8, 0x22#8, 0x33#8].length
      ∧ [0x11#8, 0x22#8, 0x33#8].length ≤ [0#8, 0#8, 0#8].length
      ∧ { refParams with rxPop := .wholePayloadAtEnd }.rxPop = .wholePayloadAtEnd
      ∧ (idle bHead).seen.ready = true ∧ 0 < [0#8].length ∧ 2 < [0#8, 0#8, 0#8].length := by decide

/-- PayloadCommandsAreRefusedInBank1 and LockGatedCommandsAreRefused. -/
theorem test_witness_gated :
    bBank1.bank = .bank1 ∧ (Instr.flushTx []).wf = true
      ∧ (Instr.flushTx []).command ∈ [Command.rRxPlWid, .rRxPayload, .wTxPayload, .flushTx, .flushRx]
      ∧ (Instr.wTxPayloadAck 5#3 []).wf = true
      ∧ (Instr.wTxPayloadAck 5#3 []).command = .wTxPayloadAck 5#3
      ∧ bLocked.bank = .bank0 ∧ bLocked.featureLocked = true := by decide

/-- WriteCommandsShiftOutDraws. -/
theorem test_witness_draws :
    (Instr.flushTx [0#8]).wf = true ∧ (idle b0).seen.ready = true
      ∧ (∀ a, (Instr.flushTx [0#8]).command ≠ .rRegister a)
      ∧ (Instr.flushTx [0#8]).command ≠ .rRxPlWid ∧ (Instr.flushTx [0#8]).command ≠ .rRxPayload
      ∧ ∃ u, exec (.flushTx [0#8]) (idle b0) = .next u :=
  ⟨rfl, rfl, by decide, by decide, by decide, _, rfl⟩

/-- RxDeliverPushesAdmittedPayloads: the guard at lengths 1 and 32, with a fixed size that binds and one
that does not; and a payload that is not admitted. -/
theorem test_witness_rx_deliver :
    rxDeliverMay 1 (List.replicate 4 0#8) (idle bReceive) = true
      ∧ rxDeliverMay 0 (List.replicate 32 0#8) (idle bReceive) = true
      ∧ rxDeliverMay 0 [0#8]
          (idle { bReceive with reg0 := { bReceive.reg0 with rxPwP0 := 0x00#8 } }) = true
      ∧ rxDeliverMay 2 [0#8] (idle bReceive) = false
      ∧ [bReceive.reg0.rxPwP0, bReceive.reg0.rxPwP1, bReceive.reg0.rxPwP2, bReceive.reg0.rxPwP3,
          bReceive.reg0.rxPwP4, bReceive.reg0.rxPwP5][(1 : Pipe).val]? = some 0x04#8 := by decide

/-- TransmitStepsSetTheirFlags: a step that may be taken, and one that may not. -/
theorem test_witness_transmit :
    let b := { bTransmit with txf := three }
    b.ready = true ∧ (idle b).txn = none ∧ b.mode = .transmit ∧ b.txf = tx [1#8] :: three.tail
      ∧ bTransmit.txf = [] := by decide

/-- BootDoneMakesTheBlockReady, PowerOnLeavesTheBlockNotReady and CePinTakesItsLevel. -/
theorem test_witness_boot :
    Block.reset.ready = false ∧ (facing .bootDone Block.reset).txn = none ∧ b0.ready = true
      ∧ (facing .bootDone b0).agenda = [.bootDone] ∧ (facing .powerOn b0).agenda = [.powerOn]
      ∧ (facing (.ce true) b0).agenda = [.ce true] := by decide

end Sys2Proof.Tests
end

namespace Sys2Proof.Machine

/-! Every step answers: there is no trap (rules R15 and R270). -/

/-- The CSN rising edge answers a next state, whether or not a transaction is open (rule R136). -/
theorem exists_csnRise_eq_next (s : State) : ∃ u, csnRise s = .next u := by
  cases ht : s.txn with
  | none => exact ⟨s.csnHigh, by simp [csnRise, ht]⟩
  | some t =>
    obtain ⟨v, hv, -⟩ := endFrame_cases t s.csnHigh
    exact ⟨v.closeFrame, by simp [csnRise, ht, hv]⟩

/-- A level put on CSN answers a next state: no edge, the rising edge, or the falling edge. -/
theorem exists_setCsn_eq_next (v : Bool) (s : State) : ∃ u, setCsn v s = .next u := by
  unfold setCsn
  split_ifs
  · exact ⟨s, rfl⟩
  · exact exists_csnRise_eq_next s
  · exact ⟨csnFall s, rfl⟩

/-- Every input answers a next state: only a level on CSN can run an instruction. -/
theorem exists_handle_eq_next (e : Event) (s : State) : ∃ u, handle e s = .next u := by
  cases e with
  | csn v => exact exists_setCsn_eq_next v s
  | _ => exact ⟨_, rfl⟩

/-- Settles O14: an empty agenda idles, and every input answers a next state. -/
theorem everyStepAnswersANextState : Obligations.EveryStepAnswersANextState := by
  intro s
  unfold step takeInput
  split
  · exact ⟨s, rfl⟩
  · exact exists_handle_eq_next _ _

end Sys2Proof.Machine

namespace Sys2Proof.Machine

/-! What an update can do (rules R190 to R252) -/

/-- The blocks that the update of an instruction can leave where it is not refused. -/
inductive Applied (b : Block) : Instr → Block → Prop where
  | unchanged (i : Instr) : Applied b i b
  | wroteBank1 (a : BitVec 5) (data : List Byte) (r1 : Bank1) :
      Applied b (.wRegister a data) { b with reg1 := r1 }
  | wroteBank0 {b' : Block} (a : BitVec 5) (data : List Byte) (h : Bank0Write b a data b') :
      Applied b (.wRegister a data) b'
  | toggled : Applied b .activateBank (toggleBank b)
  | unlocked : Applied b .activateFeature { b with featureLocked := false }
  | consumed (data : List Byte) :
      Applied b (.rRxPayload data) { b with rxf := rxConsume b.cfg.rxPop data.length b.rxf }
  | pushed {b' : Block} (i : Instr) (data : List Byte) (ack : Option Pipe)
      (h : txPush b data ack = .ok b') : Applied b i b'
  | flushedTx (data : List Byte) : Applied b (.flushTx data) { b with txf := [] }
  | flushedRx (data : List Byte) : Applied b (.flushRx data) { b with rxf := [] }

theorem applied_of_update {i : Instr} {b b' : Block} (h : update i b = .ok b') : Applied b i b' := by
  cases i with
  | rRegister a d => cases h; exact .unchanged _
  | wRegister a d =>
    obtain ⟨-, r1, rfl⟩ | ⟨-, hw⟩ := writeRegister_ok h
    · exact .wroteBank1 a d r1
    · exact .wroteBank0 a d hw
  | activateBank => cases h; exact .toggled
  | activateFeature =>
    unfold update unlockFeature at h
    split_ifs at h
    cases h
    exact .unlocked
  | rRxPlWid d =>
    obtain ⟨-, h⟩ := checkBank_ok h
    obtain ⟨-, h⟩ := checkLock_ok h
    cases h
    exact .unchanged _
  | rRxPayload d =>
    obtain ⟨-, h⟩ := checkBank_ok h
    cases h
    exact .consumed d
  | wTxPayload d => exact .pushed _ d none (checkBank_ok h).2
  | wTxPayloadAck p d =>
    simp only [update, pushWithAck] at h
    split at h
    · cases h
    · exact .pushed _ d _ (checkLock_ok (checkBank_ok h).2).2
  | flushTx d =>
    obtain ⟨-, h⟩ := checkBank_ok h
    cases h
    exact .flushedTx d
  | flushRx d =>
    obtain ⟨-, h⟩ := checkBank_ok h
    cases h
    exact .flushedRx d

/-! The fields of the block that a step can write (rules R20, R24, R27, R29 and R42). -/

/-- The fields of the block that only a command or power-on writes. -/
structure Block.SameSettings (b b' : Block) : Prop where
  bank : b'.bank = b.bank
  lock : b'.featureLocked = b.featureLocked
  refused : b'.refused = b.refused
  refusals : b'.refusals = b.refusals

/-- What the end of the transaction `t` can leave of the block `b`: a refusal's mark, the block as it was,
or the update of the instruction that the bytes decode to. -/
def Block.Ended (t : Txn) (b b' : Block) : Prop :=
  (∃ code bytes, b' = b.markRefused code bytes)
    ∨ b' = b
    ∨ ∃ c data i, t.bit = 0 ∧ t.bytes = c :: data ∧ decodeFrame c data = .ok i ∧ update i b = .ok b'

theorem ended_of_ends {t : Txn} {s u : State} (h : Ends t s u) : s.blk.Ended t u.closeFrame.blk := by
  obtain ⟨code, rfl⟩ | rfl | ⟨c, data, i, hbit, hbytes, -, hdec, hexec⟩ := h
  · exact .inl ⟨code, t.bytes, rfl⟩
  · exact .inr (.inl rfl)
  · obtain ⟨b, hb, rfl⟩ | ⟨code, -, rfl⟩ := exec_cases hexec
    · exact .inr (.inr ⟨c, data, i, hbit, hbytes, hdec, hb⟩)
    · exact .inl ⟨code, encode i, rfl⟩

/-- What a step other than power-on can do to the block: keep its settings, and its flags too where no
RadioCore step comes, or end the open transaction. -/
theorem step_blk_cases {s u : State} (h : step s = .next u) (hp : s.agenda.head? ≠ some .powerOn) :
    (s.blk.SameSettings u.blk
        ∧ ((∀ e, s.agenda.head? = some e → e.isRadio = false) → u.blk.irq = s.blk.irq))
      ∨ ∃ t rest, EndsFrame s t rest ∧ (s.risen rest).blk.Ended t u.blk := by
  obtain ⟨-, rfl⟩ | ⟨e, rest, ha, rfl, -⟩ | ⟨t, rest, v, hf, hE, rfl⟩ := step_cases h
  · exact .inl ⟨⟨rfl, rfl, rfl, rfl⟩, fun _ => rfl⟩
  · have he : e ≠ .powerOn := by
      rintro rfl
      exact hp (by simp [ha])
    obtain ⟨-, hkeep, hirq⟩ := passive_keeps e { s with agenda := rest }
    obtain ⟨hbank, hlock, -, -, hrefused, hrefusals⟩ := hkeep he
    exact .inl ⟨⟨hbank, hlock, hrefused, hrefusals⟩, fun hr => hirq he (hr e (by simp [ha]))⟩
  · exact .inr ⟨t, rest, hf, ended_of_ends hE⟩

/-- Settles O18: an input that closes no frame keeps the parameters, and so does every update and refusal. -/
theorem stepKeepsTheParameters : Obligations.StepKeepsTheParameters := by
  intro s u h
  obtain ⟨-, rfl⟩ | ⟨e, rest, -, rfl, -⟩ | ⟨t, rest, v, -, hE, rfl⟩ := step_cases h
  · rfl
  · exact (passive_keeps e { s with agenda := rest }).1
  · obtain ⟨code, bytes, hv⟩ | hv | ⟨c, data, i, -, -, -, hv⟩ := ended_of_ends hE
    · rw [hv]; rfl
    · rw [hv]; rfl
    · exact (update_keeps hv).cfg

/-- Settles O19: a refusal sets the mark, and no update and no other input touches it. -/
theorem refusedMarkIsSticky : Obligations.RefusedMarkIsSticky := by
  refine ⟨fun _ => rfl, fun s u h hp hnew => ?_, fun s u h hp hset => ?_⟩
  · obtain ⟨hsame, -⟩ | ⟨t, rest, -, ⟨code, bytes, hu⟩ | hu | ⟨c, data, i, -, -, -, hu⟩⟩ :=
      step_blk_cases h hp
    · exact absurd hsame.refusals hnew
    · rw [hu]; rfl
    · exact absurd (congrArg Block.refusals hu) hnew
    · exact absurd (update_keeps hu).refusals hnew
  · obtain ⟨hsame, -⟩ | ⟨t, rest, -, ⟨code, bytes, hu⟩ | hu | ⟨c, data, i, -, -, -, hu⟩⟩ :=
      step_blk_cases h hp
    · exact hsame.refused.trans hset
    · rw [hu]; rfl
    · exact (congrArg Block.refused hu).trans hset
    · exact (update_keeps hu).refused.trans hset

/-! The bank (rules R24 and R191) -/

/-- No update but that of ACTIVATE with argument 0x53 changes the bank. -/
theorem update_bank {i : Instr} {b b' : Block} (h : update i b = .ok b') (hi : i ≠ .activateBank) :
    b'.bank = b.bank := by
  cases applied_of_update h with
  | toggled => exact absurd rfl hi
  | wroteBank0 a data hw =>
    obtain ⟨_, _, _, _, rfl, -⟩ := hw
    rfl
  | pushed i data ack hpush =>
    obtain ⟨-, -, rfl⟩ := txPush_ok hpush
    rfl
  | _ => rfl

theorem eq_0x50_of_decodeByte_activate {c : Byte} (h : decodeByte c = .activate) : c = 0x50#8 := by
  unfold decodeByte at h
  split_ifs at h
  assumption

theorem eq_0x53_of_decodeActivate_activateBank {data : List Byte}
    (h : decodeActivate data = .ok .activateBank) : data = [0x53#8] := by
  unfold decodeActivate at h
  split at h
  · split_ifs at h with harg
    · rw [harg]
    · cases h
  · cases h

/-- Only the bytes 0x50, 0x53 decode to the bank toggle (rule R104). -/
theorem bytes_of_decodeFrame_activateBank {c : Byte} {data : List Byte}
    (h : decodeFrame c data = .ok .activateBank) : c = 0x50#8 ∧ data = [0x53#8] := by
  unfold decodeFrame at h
  split at h
  case h_3 hc => exact ⟨eq_0x50_of_decodeByte_activate hc, eq_0x53_of_decodeActivate_activateBank h⟩
  all_goals cases h

/-- Settles O21: of what a step can do, only power-on and the bank toggle's update write the bank. -/
theorem onlyActivateChangesTheBank : Obligations.OnlyActivateChangesTheBank := by
  intro s u h hbank
  by_cases hp : s.agenda.head? = some .powerOn
  · exact .inl hp
  · obtain ⟨hsame, -⟩ | ⟨t, rest, ⟨ha, -, ht⟩, hended⟩ := step_blk_cases h hp
    · exact absurd hsame.bank hbank
    obtain ⟨code, bytes, hu⟩ | hu | ⟨c, data, i, hbit, hbytes, hdec, hu⟩ := hended
    · exact absurd (congrArg Block.bank hu) hbank
    · exact absurd (congrArg Block.bank hu) hbank
    · have hi : i = .activateBank := by
        by_contra hi
        have hsame := update_bank hu hi
        exact hbank hsame
      subst hi
      obtain ⟨rfl, rfl⟩ := bytes_of_decodeFrame_activateBank hdec
      exact .inr ⟨by rw [ha]; rfl, t, ht, hbit, hbytes⟩

end Sys2Proof.Machine

namespace Sys2Proof.Machine

/-! The invariant of the machine (rules R57, R58, R134, R136 and R270) -/

theorem wf_iff (b : Block) :
    b.wf = true ↔ paramsOk b.cfg = true ∧ txFifoOk b.cfg.txDepth b.txf = true
      ∧ rxFifoOk b.cfg.rxDepth b.rxf = true ∧ b.refused = !b.refusals.isEmpty := by
  simp [Block.wf, and_assoc]

theorem txFifoOk_nil (depth : Nat) : txFifoOk depth [] = true := by simp [txFifoOk]

theorem rxFifoOk_nil (depth : Nat) : rxFifoOk depth [] = true := by simp [rxFifoOk]

/-- Removing the head entry leaves a TX FIFO well-formed. -/
theorem txFifoOk_tail {depth : Nat} {e : TxEntry} {rest : List TxEntry}
    (h : txFifoOk depth (e :: rest) = true) : txFifoOk depth rest = true := by
  simp only [txFifoOk, List.length_cons, List.all_cons, Bool.and_eq_true, decide_eq_true_eq] at h ⊢
  exact ⟨by omega, h.2.2⟩

/-- A payload added where there is room leaves an RX FIFO well-formed. -/
theorem rxFifoOk_append {depth : Nat} {f : List RxEntry} {e : RxEntry} (h : rxFifoOk depth f = true)
    (hlen : f.length < depth) (he : payloadOk e.data = true) : rxFifoOk depth (f ++ [e]) = true := by
  simp only [rxFifoOk, List.length_append, List.length_singleton, List.all_append, List.all_cons,
    List.all_nil, Bool.and_true, Bool.and_eq_true, decide_eq_true_eq] at h ⊢
  exact ⟨by omega, h.2, he⟩

/-- Every update that is applied leaves both FIFOs well-formed. -/
theorem update_keeps_fifos {i : Instr} {b b' : Block} (h : update i b = .ok b')
    (htx : txFifoOk b.cfg.txDepth b.txf = true) (hrx : rxFifoOk b.cfg.rxDepth b.rxf = true) :
    txFifoOk b.cfg.txDepth b'.txf = true ∧ rxFifoOk b.cfg.rxDepth b'.rxf = true := by
  cases applied_of_update h with
  | wroteBank0 a data hw =>
    obtain ⟨r0, irq, txf, rxf, rfl, -, htxf, hrxf, -⟩ := hw
    constructor
    · obtain rfl | rfl | rfl := htxf
      · exact htx
      · exact txFifoOk_nil _
      · exact txFifoOfDraw_ok _ _
    · obtain rfl | rfl | rfl := hrxf
      · exact hrx
      · exact rxFifoOk_nil _
      · exact rxFifoOfDraw_ok _ _
  | consumed data => exact ⟨htx, rxConsume_keeps_ok hrx⟩
  | pushed i data ack hpush =>
    refine ⟨txPush_keeps_ok htx hpush, ?_⟩
    obtain ⟨-, -, rfl⟩ := txPush_ok hpush
    exact hrx
  | flushedTx data => exact ⟨txFifoOk_nil _, hrx⟩
  | flushedRx data => exact ⟨htx, rxFifoOk_nil _⟩
  | _ => exact ⟨htx, hrx⟩

theorem update_keeps_wf {i : Instr} {b b' : Block} (h : update i b = .ok b') (hb : b.wf = true) :
    b'.wf = true := by
  obtain ⟨hcfg, htx, hrx, href⟩ := (wf_iff b).mp hb
  have hk := update_keeps h
  rw [wf_iff, hk.cfg, hk.refused, hk.refusals]
  exact ⟨hcfg, (update_keeps_fifos h htx hrx).1, (update_keeps_fifos h htx hrx).2, href⟩

theorem markRefused_keeps_wf {b : Block} (code : RefusalCode) (bytes : List Byte) (hb : b.wf = true) :
    (b.markRefused code bytes).wf = true := by
  obtain ⟨hcfg, htx, hrx, -⟩ := (wf_iff b).mp hb
  exact (wf_iff _).mpr ⟨hcfg, htx, hrx, by simp⟩

theorem ended_keeps_wf {t : Txn} {b b' : Block} (h : b.Ended t b') (hb : b.wf = true) :
    b'.wf = true := by
  obtain ⟨code, bytes, rfl⟩ | rfl | ⟨c, data, i, -, -, -, hu⟩ := h
  · exact markRefused_keeps_wf code bytes hb
  · exact hb
  · exact update_keeps_wf hu hb

theorem poweredOn_wf {b : Block} (n : Nat) (hb : b.wf = true) : (b.poweredOn n).wf = true := by
  obtain ⟨hcfg, -⟩ := (wf_iff b).mp hb
  exact (wf_iff _).mpr ⟨hcfg, txFifoOfDraw_ok _ _, rxFifoOfDraw_ok _ _, rfl⟩

/-- With no transaction open, the invariant is that of the block and of the undriven MISO. -/
theorem inv_of_closed {s : State} (hwf : s.blk.wf = true) (ht : s.txn = none) (hm : s.miso = none) :
    s.Inv :=
  ⟨hwf, fun _ => hm, fun t h => by simp [ht] at h⟩

/-- With a transaction open, the invariant is that of the block and of the transaction. -/
theorem inv_of_open {s : State} {t : Txn} (hwf : s.blk.wf = true) (ht : s.txn = some t)
    (hti : s.txnInv t) : s.Inv := by
  refine ⟨hwf, fun h => ?_, fun t' h => ?_⟩
  · simp [ht] at h
  · obtain rfl : t = t' := Option.some.inj (ht.symm.trans h)
    exact hti

/-- An input that writes the block alone keeps the invariant where no transaction is open. -/
theorem inv_with_blk {s : State} {b : Block} (h : s.Inv) (ht : s.txn = none) (hb : b.wf = true) :
    State.Inv { s with blk := b } :=
  inv_of_closed hb ht (h.2.1 ht)

theorem setCe_keeps_inv (v : Bool) {s : State} (h : s.Inv) : (setCe v s).Inv := by
  obtain ⟨hwf, hmiso, htxn⟩ := h
  refine ⟨hwf, hmiso, fun t ht => ?_⟩
  obtain ⟨hcsn, hm, hbit, hsnap, hout⟩ := htxn t ht
  exact ⟨hcsn, hm, hbit, hsnap, hout⟩

/-- The CSN falling edge opens a transaction as rule R131 has it. -/
theorem csnFall_keeps_inv {s : State} (h : s.Inv) (hcsn : s.blk.csn = true) : (csnFall s).Inv := by
  cases ht : s.txn with
  | some t =>
    obtain ⟨hlow, -⟩ := h.2.2 t ht
    simp [hcsn] at hlow
  | none =>
    rw [csnFall, ht]
    exact inv_of_open h.1 rfl ⟨rfl, rfl, Nat.succ_pos 7, rfl, rfl⟩

theorem sckRise_keeps_inv {s : State} (h : s.Inv) : (sckRise s).Inv := by
  cases ht : s.txn with
  | none =>
    rw [sckRise, ht]
    exact h
  | some t =>
    obtain ⟨hcsn, hm, hbit, hsnap, hout⟩ := h.2.2 t ht
    rw [sckRise, ht]
    dsimp only
    split_ifs with h8
    · exact inv_of_open h.1 rfl ⟨hcsn, hm, Nat.succ_pos 7, hsnap, by simp⟩
    · exact inv_of_open h.1 rfl ⟨hcsn, hm, by dsimp only; omega, hsnap, hout⟩

theorem sckFall_keeps_inv {s : State} (h : s.Inv) : (sckFall s).Inv := by
  cases ht : s.txn with
  | none =>
    rw [sckFall, ht]
    exact h
  | some t =>
    obtain ⟨hcsn, -, hbit, hsnap, hout⟩ := h.2.2 t ht
    rw [sckFall, ht]
    exact inv_of_open h.1 rfl ⟨hcsn, rfl, hbit, hsnap, hout⟩

theorem setSck_keeps_inv (v : Bool) {s : State} (h : s.Inv) : (setSck v s).Inv := by
  unfold setSck
  split_ifs
  · exact h
  · exact @sckRise_keeps_inv { s with sck := true } h
  · exact @sckFall_keeps_inv { s with sck := false } h

/-- The RadioCore steps only where no transaction is open. -/
theorem txn_none_of_radioMay {m : Mode} {s : State} (h : radioMay m s = true) : s.txn = none := by
  simp only [radioMay, Bool.and_eq_true, Option.isNone_iff_eq_none] at h
  exact h.1.2

theorem rxDeliver_keeps_inv (p : Pipe) (d : List Byte) {s : State} (h : s.Inv) :
    (rxDeliver p d s).Inv := by
  unfold rxDeliver
  split_ifs with hmay
  · simp only [rxDeliverMay, Bool.and_eq_true, decide_eq_true_eq] at hmay
    obtain ⟨⟨⟨⟨hradio, -⟩, hpay⟩, hroom⟩, -⟩ := hmay
    obtain ⟨hcfg, htx, hrx, href⟩ := (wf_iff _).mp h.1
    exact inv_with_blk h (txn_none_of_radioMay hradio)
      ((wf_iff _).mpr ⟨hcfg, htx, rxFifoOk_append hrx hroom hpay, href⟩)
  · exact h

theorem txSent_keeps_inv {s : State} (h : s.Inv) : (txSent s).Inv := by
  unfold txSent
  split
  · exact h
  next e rest hf =>
    split_ifs with hradio
    · obtain ⟨hcfg, htx, hrx, href⟩ := (wf_iff _).mp h.1
      exact inv_with_blk h (txn_none_of_radioMay hradio)
        ((wf_iff _).mpr ⟨hcfg, txFifoOk_tail (hf ▸ htx), hrx, href⟩)
    · exact h

theorem txMaxRt_keeps_inv {s : State} (h : s.Inv) : (txMaxRt s).Inv := by
  unfold txMaxRt
  split_ifs with hmay
  · rw [Bool.and_eq_true] at hmay
    exact inv_with_blk h (txn_none_of_radioMay hmay.1) h.1
  · exact h

theorem bootDone_keeps_inv {s : State} (h : s.Inv) : (bootDone s).Inv := by
  unfold bootDone
  split_ifs with hb
  · exact inv_with_blk h hb.2 h.1
  · exact h

/-- An input that closes no frame keeps the invariant. -/
theorem passive_keeps_inv {e : Event} {s : State} (h : s.Inv)
    (hclosed : e = .csn true → s.blk.csn = false → s.txn = none) : (passive e s).Inv := by
  cases e with
  | ce v => exact setCe_keeps_inv v h
  | csn v =>
    simp only [passive]
    split_ifs with heq hv
    · exact h
    · subst hv
      exact inv_with_blk h (hclosed rfl (by simpa using heq)) h.1
    · exact csnFall_keeps_inv h (by simpa [hv] using heq)
  | sck v => exact setSck_keeps_inv v h
  | mosi v => exact h
  | wait us => exact h
  | rxDeliver p d => exact rxDeliver_keeps_inv p d h
  | txSent => exact txSent_keeps_inv h
  | txMaxRt => exact txMaxRt_keeps_inv h
  | bootDone => exact bootDone_keeps_inv h
  | powerOn => exact inv_of_closed (poweredOn_wf _ h.1) rfl rfl

/-- Settles O15: each input keeps the invariant, and the end of a frame leaves a well-formed block with no
transaction open. -/
theorem stepKeepsTheInvariant : Obligations.StepKeepsTheInvariant := by
  intro s u h hstep
  obtain ⟨-, rfl⟩ | ⟨e, rest, -, rfl, hclosed⟩ | ⟨t, rest, v, -, hE, rfl⟩ := step_cases hstep
  · exact h
  · exact @passive_keeps_inv e { s with agenda := rest } h hclosed
  · have hwf : (s.risen rest).blk.wf = true := h.1
    exact inv_of_closed (ended_keeps_wf (ended_of_ends hE) hwf) rfl rfl

/-- Settles O16: the parameters and the empty FIFOs of State.reset are admissible, and it has no open
transaction. -/
theorem resetMeetsTheInvariant : Obligations.ResetMeetsTheInvariant :=
  inv_of_closed (by decide) rfl rfl

/-- Settles O17: State.reset names these fields as rule R61 gives them. -/
theorem resetIsNotReady : Obligations.ResetIsNotReady := ⟨rfl, rfl, rfl, rfl⟩

/-- Settles O60: the fields of Block.poweredOn; its FIFOs are draws made well-formed. -/
theorem powerOnLeavesTheBlockNotReady : Obligations.PowerOnLeavesTheBlockNotReady := by
  intro s rest ha
  have hstep : step s = .next (powerOn { s with agenda := rest }) := by
    simp only [step, takeInput, ha, handle]
  exact ⟨_, hstep, rfl, rfl, rfl, rfl, rfl, txFifoOfDraw_ok _ _, rxFifoOfDraw_ok _ _, rfl, rfl, rfl⟩

end Sys2Proof.Machine

namespace Sys2Proof.Machine

/-! The feature lock (rule R27) -/

/-- In bank 0, W_REGISTER at 0x1D is the write of FEATURE, in every layout (rules R9 and R221). -/
theorem writeRegister_feature {b : Block} (hb : b.bank = .bank0) (data : List Byte) :
    writeRegister b 0x1D#5 data = writeFeature b data := by
  simp [writeRegister, hb]

/-- While the lock is closed, a FEATURE write that is not refused leaves the block as it is (rule R221). -/
theorem writeFeature_of_locked {b : Block} (hl : b.featureLocked = true) (data : List Byte) :
    writeFeature b data = if data.length ≤ 1 then .ok b else .error .rf04TooManyBytes := by
  match data with
  | [] => rfl
  | [v] => simp [writeFeature, hl]
  | v :: w :: rest => simp [writeFeature]

theorem exec_wRegister (a : BitVec 5) (data : List Byte) (s : State) :
    exec (.wRegister a data) s = s.conclude (.wRegister a data) (writeRegister s.blk a data) := rfl

/-- Settles O22: a FEATURE write while locked changes nothing, and no update closes the lock. -/
theorem featureLockIsLeftForGood : Obligations.FeatureLockIsLeftForGood := by
  refine ⟨fun s data hb hl hlen => ?_, fun s data hb hl => ?_, fun b d hb hl => ?_, fun s hl => ?_,
    fun s u h hp hopen => ?_⟩
  · rw [exec_wRegister, writeRegister_feature hb, writeFeature_of_locked hl, if_pos hlen, conclude_ok]
    rfl
  · rw [exec_wRegister, writeRegister_feature hb, writeFeature_of_locked hl]
    split_ifs
    · exact ⟨_, rfl, rfl⟩
    · exact ⟨_, rfl, rfl⟩
  · simp [readByte, hb, hl]
  · exact ⟨_, by rw [exec_eq_conclude, update, unlockFeature, if_pos hl, conclude_ok], rfl⟩
  · obtain ⟨hsame, -⟩ | ⟨t, rest, -, ⟨code, bytes, hu⟩ | hu | ⟨c, data, i, -, -, -, hu⟩⟩ :=
      step_blk_cases h hp
    · exact hsame.lock.trans hopen
    · exact (congrArg Block.featureLocked hu).trans hopen
    · exact (congrArg Block.featureLocked hu).trans hopen
    · exact (update_keeps hu).lock hopen

/-! The interrupt flags (rule R42) -/

theorem getLsbD_clearFlags (irq : BitVec 3) (v : Byte) {k : Nat} (hk : k < 3) :
    (clearFlags irq v).getLsbD k = (irq.getLsbD k && !v.getLsbD (4 + k)) := by
  simp [clearFlags, hk]

/-- Clearing flags sets none. -/
theorem getLsbD_of_clearFlags {irq : BitVec 3} {v : Byte} {k : Nat}
    (h : (clearFlags irq v).getLsbD k = true) : irq.getLsbD k = true := by
  rw [clearFlags, BitVec.getLsbD_and, Bool.and_eq_true] at h
  exact h.1

/-- Settles O23: no update sets a flag, and no input but a RadioCore step or power-on writes one. -/
theorem onlyTheRadioSetsFlags : Obligations.OnlyTheRadioSetsFlags := by
  refine ⟨fun s v hb => ?_, fun s u k h hp hradio hset => ?_⟩
  · have hw : writeRegister s.blk 0x07#5 [v] = .ok { s.blk with irq := clearFlags s.blk.irq v } := by
      simp [writeRegister, hb, writeStatus]
    exact ⟨_, by rw [exec_wRegister, hw, conclude_ok], fun k hk => getLsbD_clearFlags _ _ hk⟩
  · obtain ⟨-, hirq⟩ | ⟨t, rest, -, ⟨code, bytes, hu⟩ | hu | ⟨c, data, i, -, -, -, hu⟩⟩ :=
      step_blk_cases h hp
    · rwa [hirq hradio] at hset
    · rwa [hu] at hset
    · rwa [hu] at hset
    · obtain hirq | ⟨v, hirq⟩ := (update_keeps hu).irq
      · rwa [hirq] at hset
      · rw [hirq] at hset
        exact getLsbD_of_clearFlags hset

/-! The STATUS byte (rule R40) -/

/-- The bits of a field that is shifted to its place in a byte. -/
theorem getLsbD_setWidth_shiftLeft {n : Nat} (f : BitVec n) (pos : Nat) {k : Nat} (hk : k < 8) :
    (f.setWidth 8 <<< pos).getLsbD k = (decide (pos ≤ k) && f.getLsbD (k - pos)) := by
  by_cases h : pos ≤ k
  · simp [hk, h]
  · simp [hk, h]

/-- The bits of a one-bit field that is shifted to its place in a byte. -/
theorem getLsbD_ofBool_shiftLeft (x : Bool) (pos : Nat) {k : Nat} (hk : k < 8) :
    ((BitVec.ofBool x).setWidth 8 <<< pos).getLsbD k = (decide (k = pos) && x) := by
  rw [getLsbD_setWidth_shiftLeft _ _ hk, BitVec.getLsbD_ofBool, ← Bool.and_assoc, ← Bool.decide_and]
  congr 2
  exact propext ⟨fun h => by omega, fun h => by omega⟩

/-- Every bit of STATUS as the union of the fields in their places and the drawn bits. -/
theorem getLsbD_status (b : Block) (d : Byte) {k : Nat} (hk : k < 8) :
    (b.status d).getLsbD k =
      ((decide (k = 7) && b.bankBit)
        || (decide (4 ≤ k) && b.irq.getLsbD (k - 4))
        || (decide (b.cfg.layout.posRxPNo.val ≤ k) && b.pipeField.getLsbD (k - b.cfg.layout.posRxPNo.val))
        || (decide (k = b.cfg.layout.posTxFull.val) && b.txFull)
        || (d.getLsbD k && !(statusCovered b.cfg.layout).getLsbD k)) := by
  simp only [Block.status, BitVec.getLsbD_or, BitVec.getLsbD_and, BitVec.getLsbD_not, hk, decide_true,
    Bool.true_and, getLsbD_setWidth_shiftLeft b.irq 4 hk, getLsbD_setWidth_shiftLeft b.pipeField _ hk,
    getLsbD_ofBool_shiftLeft _ _ hk]

/-- The bits that the layout covers: the upper four, the three of the pipe field, and TX_FULL. -/
theorem getLsbD_statusCovered (l : Layout) {k : Nat} (hk : k < 8) :
    (statusCovered l).getLsbD k =
      (decide (4 ≤ k) || (decide (l.posRxPNo.val ≤ k) && decide (k < l.posRxPNo.val + 3))
        || decide (k = l.posTxFull.val)) := by
  have hhigh : ∀ j < 8, (0xF0#8).getLsbD j = decide (4 ≤ j) := by decide
  have hpipe : 0b111#8 = (BitVec.allOnes 3).setWidth 8 := rfl
  have hfull : 1#8 = (BitVec.ofBool true).setWidth 8 := rfl
  rw [statusCovered, hpipe, hfull, BitVec.getLsbD_or, BitVec.getLsbD_or, hhigh k hk,
    getLsbD_setWidth_shiftLeft _ _ hk, getLsbD_ofBool_shiftLeft _ _ hk, BitVec.getLsbD_allOnes,
    Bool.and_true]
  congr 2
  by_cases h : l.posRxPNo.val ≤ k
  · simp only [h, decide_true, Bool.true_and, decide_eq_decide]
    omega
  · simp [h]

/-- Settles O32: the places are disjoint, and together they cover the byte, so no drawn bit is left. -/
theorem statusByteShowsItsFields : Obligations.StatusByteShowsItsFields := by
  intro b d k hk hpipe hfull hdisj
  have hcov : (statusCovered b.cfg.layout).getLsbD k = true := by
    simp only [getLsbD_statusCovered _ hk, Bool.or_eq_true, Bool.and_eq_true, decide_eq_true_eq]
    omega
  have houtside : ¬(b.cfg.layout.posRxPNo.val ≤ k ∧ k < b.cfg.layout.posRxPNo.val + 3) →
      (decide (b.cfg.layout.posRxPNo.val ≤ k)
        && b.pipeField.getLsbD (k - b.cfg.layout.posRxPNo.val)) = false := by
    intro h
    by_cases hle : b.cfg.layout.posRxPNo.val ≤ k
    · rw [BitVec.getLsbD_of_ge _ _ (by omega), Bool.and_false]
    · rw [decide_eq_false hle, Bool.false_and]
  rw [getLsbD_status b d hk, hcov]
  split_ifs with h7 h4 hp ht
  · have ht : k ≠ b.cfg.layout.posTxFull.val := by omega
    have hirq : b.irq.getLsbD (k - 4) = false := BitVec.getLsbD_of_ge _ _ (by omega)
    rw [houtside (by omega), hirq, decide_eq_true h7, decide_eq_false ht]
    simp only [Bool.true_and, Bool.and_false, Bool.or_false, Bool.not_true, Bool.false_and]
    rfl
  · have ht : k ≠ b.cfg.layout.posTxFull.val := by omega
    rw [houtside (by omega)]
    simp [h7, h4, ht]
  · have ht : k ≠ b.cfg.layout.posTxFull.val := by omega
    simp only [h7, h4, hp.1, ht, decide_false, decide_true, Bool.false_and, Bool.true_and, Bool.and_false,
      Bool.false_or, Bool.or_false, Bool.not_true]
    rfl
  · rw [houtside hp, decide_eq_true ht]
    simp only [h7, h4, decide_false, Bool.false_and, Bool.true_and, Bool.and_false, Bool.false_or,
      Bool.or_false, Bool.not_true]
    rfl
  · exfalso
    omega

end Sys2Proof.Machine

namespace Sys2Proof.Machine

/-! Bank-1 storage is never observed (rule R54): every operation gives the same result, up to bank-1
storage, on a state and on that state with its bank-1 storage hidden. -/

@[simp] theorem hideReg1_cfg (b : Block) : b.hideReg1.cfg = b.cfg := rfl

@[simp] theorem outBytes_hideReg1 (b : Block) (bytes : List Byte) :
    outBytes b.hideReg1 bytes = outBytes b bytes := rfl

/-- Two results of an update that agree up to bank-1 storage: the same refusal, or blocks that do. -/
def SameButReg1 (r r' : Except RefusalCode Block) : Prop := r.map Block.hideReg1 = r'.map Block.hideReg1

/-- Two choices agree where their conditions are equivalent and their branches agree. -/
theorem sameButReg1_ite {c c' : Prop} [Decidable c] [Decidable c'] {x x' y y' : Except RefusalCode Block}
    (hc : c ↔ c') (hx : SameButReg1 x x') (hy : SameButReg1 y y') :
    SameButReg1 (if c then x else y) (if c' then x' else y') := by
  by_cases h : c'
  · rwa [if_pos h, if_pos (hc.mpr h)]
  · rwa [if_neg h, if_neg (fun h' => h (hc.mp h'))]

theorem memWrite0_hideReg1 (b : Block) (r : Reg0) (data : List Byte) :
    SameButReg1 (memWrite0 b.hideReg1 r data) (memWrite0 b r data) :=
  sameButReg1_ite Iff.rfl rfl (sameButReg1_ite Iff.rfl rfl rfl)

theorem memWrite1_hideReg1 (b : Block) (r : Reg1) (data : List Byte) :
    SameButReg1 (memWrite1 b.hideReg1 r data) (memWrite1 b r data) :=
  sameButReg1_ite Iff.rfl rfl (sameButReg1_ite Iff.rfl rfl rfl)

theorem writeBank1_hideReg1 (b : Block) (a : BitVec 5) (data : List Byte) :
    SameButReg1 (writeBank1 b.hideReg1 a data) (writeBank1 b a data) := by
  unfold writeBank1
  split
  · rfl
  · exact memWrite1_hideReg1 b _ data

theorem writeStatus_hideReg1 (b : Block) (data : List Byte) :
    SameButReg1 (writeStatus b.hideReg1 data) (writeStatus b data) := by
  match data with
  | [] | [_] | _ :: _ :: _ => rfl

theorem powerOffFifos_hideReg1 (b : Block) (old new : Byte) :
    SameButReg1 (.ok (powerOffFifos b.hideReg1 old new)) (.ok (powerOffFifos b old new)) := by
  unfold powerOffFifos
  rw [apply_ite Except.ok, apply_ite Except.ok]
  exact sameButReg1_ite Iff.rfl rfl rfl

theorem writeConfig_hideReg1 (b : Block) (data : List Byte) :
    SameButReg1 (writeConfig b.hideReg1 data) (writeConfig b data) := by
  match data with
  | [] | _ :: _ :: _ => rfl
  | [v] =>
    exact sameButReg1_ite Iff.rfl rfl
      (powerOffFifos_hideReg1 { b with reg0 := { b.reg0 with config := v } } b.reg0.config v)

theorem writeAux_hideReg1 (b : Block) (data : List Byte) :
    SameButReg1 (writeAux b.hideReg1 data) (writeAux b data) := by
  match data with
  | [] | [_] | _ :: _ :: _ => rfl

theorem writeFeature_hideReg1 (b : Block) (data : List Byte) :
    SameButReg1 (writeFeature b.hideReg1 data) (writeFeature b data) := by
  match data with
  | [] | _ :: _ :: _ => rfl
  | [v] => exact sameButReg1_ite Iff.rfl rfl rfl

theorem writeDynpd_hideReg1 (b : Block) (data : List Byte) :
    SameButReg1 (writeDynpd b.hideReg1 data) (writeDynpd b data) :=
  sameButReg1_ite Iff.rfl rfl (memWrite0_hideReg1 b .dynpd data)

theorem writeRegister_hideReg1 (b : Block) (a : BitVec 5) (data : List Byte) :
    SameButReg1 (writeRegister b.hideReg1 a data) (writeRegister b a data) := by
  refine sameButReg1_ite Iff.rfl (writeBank1_hideReg1 b a data) ?_
  rw [hideReg1_cfg]
  split
  · rfl
  · exact writeStatus_hideReg1 b data
  · exact writeConfig_hideReg1 b data
  · exact writeAux_hideReg1 b data
  · exact writeFeature_hideReg1 b data
  · exact writeDynpd_hideReg1 b data
  · exact memWrite0_hideReg1 b _ data

theorem txPush_hideReg1 (b : Block) (data : List Byte) (ack : Option Pipe) :
    SameButReg1 (txPush b.hideReg1 data ack) (txPush b data ack) :=
  sameButReg1_ite Iff.rfl rfl (sameButReg1_ite Iff.rfl rfl rfl)

theorem checkBank_hideReg1 (b : Block) {k k' : Except RefusalCode Block} (h : SameButReg1 k k') :
    SameButReg1 (checkBank b.hideReg1 k) (checkBank b k') :=
  sameButReg1_ite Iff.rfl rfl h

theorem checkLock_hideReg1 (b : Block) {k k' : Except RefusalCode Block} (h : SameButReg1 k k') :
    SameButReg1 (checkLock b.hideReg1 k) (checkLock b k') :=
  sameButReg1_ite Iff.rfl rfl h

theorem unlockFeature_hideReg1 (b : Block) :
    SameButReg1 (unlockFeature b.hideReg1) (unlockFeature b) :=
  sameButReg1_ite Iff.rfl rfl rfl

/-- No instruction's update depends on bank-1 storage, but for what it leaves there. -/
theorem update_hideReg1 (i : Instr) (b : Block) :
    SameButReg1 (update i b.hideReg1) (update i b) := by
  cases i with
  | rRegister a data => rfl
  | wRegister a data => exact writeRegister_hideReg1 b a data
  | activateBank => rfl
  | activateFeature => exact unlockFeature_hideReg1 b
  | rRxPlWid data => exact checkBank_hideReg1 b (checkLock_hideReg1 b rfl)
  | wTxPayload data => exact checkBank_hideReg1 b (txPush_hideReg1 b data none)
  | wTxPayloadAck pipe data =>
    simp only [update, pushWithAck]
    split
    · rfl
    · exact checkBank_hideReg1 b (checkLock_hideReg1 b (txPush_hideReg1 b data _))
  | rRxPayload data | flushTx data | flushRx data => exact checkBank_hideReg1 b rfl

theorem seen_hideReg1 (s : State) : s.hideReg1.seen = s.seen.hideReg1 := by
  cases ht : s.txn <;> simp [State.seen, State.hideReg1, ht]

theorem answer_hideReg1 (bytes : List Byte) (s : State) :
    s.hideReg1.answer bytes = (s.answer bytes).hideReg1 := by
  simp only [State.answer, seen_hideReg1, outBytes_hideReg1]
  rfl

theorem refuse_hideReg1 (code : RefusalCode) (bytes : List Byte) (s : State) :
    s.hideReg1.refuse code bytes = (s.refuse code bytes).hideReg1 := by
  simp only [State.refuse, answer_hideReg1]
  rfl

theorem hideReg1_hideReg1 (s : State) : s.hideReg1.hideReg1 = s.hideReg1 := by
  cases ht : s.txn <;> simp [State.hideReg1, Block.hideReg1, ht]

/-- Two outcomes that agree up to bank-1 storage. -/
def SameStepButReg1 (o o' : Host.Outcome State Fault Refusal) : Prop :=
  mapNext State.hideReg1 o = mapNext State.hideReg1 o'

/-- An operation that commutes with hiding gives outcomes that agree. -/
theorem sameStep_of_eq {s u : State} (h : s = u.hideReg1) : SameStepButReg1 (.next s) (.next u) := by
  subst h
  exact congrArg Host.Outcome.next (hideReg1_hideReg1 u)

/-- Two choices agree where their conditions are equivalent and their branches agree. -/
theorem sameStep_ite {c c' : Prop} [Decidable c] [Decidable c']
    {x x' y y' : Host.Outcome State Fault Refusal} (hc : c ↔ c') (hx : SameStepButReg1 x x')
    (hy : SameStepButReg1 y y') : SameStepButReg1 (if c then x else y) (if c' then x' else y') := by
  by_cases h : c'
  · rwa [if_pos h, if_pos (hc.mpr h)]
  · rwa [if_neg h, if_neg (fun h' => h (hc.mp h'))]

theorem conclude_hideReg1 (i : Instr) {r r' : Except RefusalCode Block} (h : SameButReg1 r r') (s : State) :
    SameStepButReg1 (s.hideReg1.conclude i r) (s.conclude i r') := by
  cases r <;> cases r'
  case error.error c c' =>
    obtain rfl : c = c' := Except.error.inj h
    exact sameStep_of_eq (refuse_hideReg1 c _ s)
  case ok.ok b b' =>
    have hb : b.hideReg1 = b'.hideReg1 := Except.ok.inj h
    rw [conclude_ok, conclude_ok, answer_hideReg1]
    refine congrArg Host.Outcome.next ?_
    change { (s.answer (encode i)).hideReg1.hideReg1 with blk := b.hideReg1 }
      = { (s.answer (encode i)).hideReg1 with blk := b'.hideReg1 }
    rw [hideReg1_hideReg1, hb]
  case error.ok => cases h
  case ok.error => cases h

theorem exec_hideReg1 (i : Instr) (s : State) : SameStepButReg1 (exec i s.hideReg1) (exec i s) := by
  rw [exec_eq_conclude, exec_eq_conclude]
  exact conclude_hideReg1 i (update_hideReg1 i s.blk) s

theorem endFrame_hideReg1 (t : Txn) (s : State) :
    SameStepButReg1 (endFrame { t with snap := t.snap.hideReg1 } s.hideReg1) (endFrame t s) := by
  refine sameStep_ite Iff.rfl (sameStep_of_eq (refuse_hideReg1 _ _ s)) ?_
  dsimp only
  split
  · exact sameStep_of_eq (answer_hideReg1 _ s)
  · refine sameStep_ite Iff.rfl (sameStep_of_eq (answer_hideReg1 _ s)) ?_
    split
    · exact exec_hideReg1 _ s
    · exact sameStep_of_eq (refuse_hideReg1 _ _ s)

theorem closeFrame_hideReg1 {o o' : Host.Outcome State Fault Refusal} (h : SameStepButReg1 o o') :
    SameStepButReg1 (mapNext State.closeFrame o) (mapNext State.closeFrame o') := by
  have hswap : ∀ o, mapNext State.hideReg1 (mapNext State.closeFrame o)
      = mapNext State.closeFrame (mapNext State.hideReg1 o) := by
    intro o
    cases o <;> rfl
  rw [SameStepButReg1, hswap, hswap]
  exact congrArg (mapNext State.closeFrame) h

theorem hideReg1_closed {s : State} (ht : s.txn = none) : s.hideReg1.txn = none :=
  congrArg (Option.map _) ht

theorem hideReg1_open {s : State} {t : Txn} (ht : s.txn = some t) :
    s.hideReg1.txn = some { t with snap := t.snap.hideReg1 } :=
  congrArg (Option.map _) ht

theorem csnRise_hideReg1 (s : State) : SameStepButReg1 (csnRise s.hideReg1) (csnRise s) := by
  cases ht : s.txn with
  | none =>
    rw [csnRise, csnRise, ht, hideReg1_closed ht]
    exact sameStep_of_eq rfl
  | some t =>
    rw [csnRise, csnRise, ht, hideReg1_open ht]
    exact closeFrame_hideReg1 (endFrame_hideReg1 t s.csnHigh)

theorem csnFall_hideReg1 (s : State) : csnFall s.hideReg1 = (csnFall s).hideReg1 := by
  cases ht : s.txn with
  | none =>
    rw [csnFall, csnFall, ht, hideReg1_closed ht]
    rfl
  | some t =>
    rw [csnFall, csnFall, ht, hideReg1_open ht]
    rfl

theorem sckRise_hideReg1 (s : State) : sckRise s.hideReg1 = (sckRise s).hideReg1 := by
  cases ht : s.txn with
  | none =>
    rw [sckRise, sckRise, ht, hideReg1_closed ht]
  | some t =>
    rw [sckRise, sckRise, ht, hideReg1_open ht]
    dsimp only
    rw [apply_ite State.hideReg1]
    rfl

theorem sckFall_hideReg1 (s : State) : sckFall s.hideReg1 = (sckFall s).hideReg1 := by
  cases ht : s.txn with
  | none =>
    rw [sckFall, sckFall, ht, hideReg1_closed ht]
  | some t =>
    rw [sckFall, sckFall, ht, hideReg1_open ht]
    simp only [State.hideReg1, ht, Option.map_some]

theorem setSck_hideReg1 (v : Bool) (s : State) : setSck v s.hideReg1 = (setSck v s).hideReg1 := by
  unfold setSck
  rw [apply_ite State.hideReg1, apply_ite State.hideReg1, ← sckRise_hideReg1, ← sckFall_hideReg1]
  rfl

@[simp] theorem radioMay_hideReg1 (m : Mode) (s : State) : radioMay m s.hideReg1 = radioMay m s := by
  have ht : s.hideReg1.txn.isNone = s.txn.isNone := Option.isNone_map
  unfold radioMay
  rw [ht]
  rfl

theorem rxDeliver_hideReg1 (p : Pipe) (d : List Byte) (s : State) :
    rxDeliver p d s.hideReg1 = (rxDeliver p d s).hideReg1 := by
  have hmay : rxDeliverMay p d s.hideReg1 = rxDeliverMay p d s := by
    unfold rxDeliverMay
    rw [radioMay_hideReg1]
    rfl
  rw [rxDeliver, hmay, rxDeliver, apply_ite State.hideReg1]
  rfl

theorem txSent_hideReg1 (s : State) : txSent s.hideReg1 = (txSent s).hideReg1 := by
  cases hf : s.blk.txf with
  | nil =>
    have hf' : s.hideReg1.blk.txf = [] := hf
    rw [txSent, hf', txSent, hf]
  | cons e rest =>
    have hf' : s.hideReg1.blk.txf = e :: rest := hf
    rw [txSent, hf', txSent, hf]
    dsimp only
    rw [radioMay_hideReg1, apply_ite State.hideReg1]
    rfl

theorem txMaxRt_hideReg1 (s : State) : txMaxRt s.hideReg1 = (txMaxRt s).hideReg1 := by
  rw [txMaxRt, radioMay_hideReg1, txMaxRt, apply_ite State.hideReg1]
  rfl

theorem bootDone_hideReg1 (s : State) : bootDone s.hideReg1 = (bootDone s).hideReg1 := by
  cases ht : s.txn with
  | none =>
    rw [bootDone, bootDone, ht, hideReg1_closed ht, apply_ite State.hideReg1]
    rfl
  | some t =>
    rw [bootDone, bootDone, ht, hideReg1_open ht, if_neg (by simp), if_neg (by simp)]

theorem handle_hideReg1 (e : Event) (s : State) :
    SameStepButReg1 (handle e s.hideReg1) (handle e s) := by
  cases e with
  | ce v => exact sameStep_of_eq rfl
  | csn v =>
    refine sameStep_ite Iff.rfl (sameStep_of_eq rfl) (sameStep_ite Iff.rfl (csnRise_hideReg1 s) ?_)
    exact sameStep_of_eq (csnFall_hideReg1 s)
  | sck v => exact sameStep_of_eq (setSck_hideReg1 v s)
  | mosi v => exact sameStep_of_eq rfl
  | wait us => exact sameStep_of_eq rfl
  | rxDeliver p d => exact sameStep_of_eq (rxDeliver_hideReg1 p d s)
  | txSent => exact sameStep_of_eq (txSent_hideReg1 s)
  | txMaxRt => exact sameStep_of_eq (txMaxRt_hideReg1 s)
  | bootDone => exact sameStep_of_eq (bootDone_hideReg1 s)
  | powerOn => rfl

theorem step_hideReg1 (s : State) : SameStepButReg1 (step s.hideReg1) (step s) := by
  cases ha : s.agenda with
  | nil =>
    have ha' : s.hideReg1.agenda = [] := ha
    rw [step, takeInput, ha', step, takeInput, ha]
    exact sameStep_of_eq rfl
  | cons e rest =>
    have ha' : s.hideReg1.agenda = e :: rest := ha
    rw [step, takeInput, ha', step, takeInput, ha]
    exact handle_hideReg1 e { s with agenda := rest }

/-- Settles O30: both steps agree, up to bank-1 storage, with the step of the state that hides it; MISO and
the response are not hidden. -/
theorem bank1StorageIsNeverObserved : Obligations.Bank1StorageIsNeverObserved := by
  intro s s' u u' hs hu hu'
  have h : SameStepButReg1 (step s) (step s') :=
    (step_hideReg1 s).symm.trans (hs ▸ step_hideReg1 s')
  rw [hu, hu'] at h
  have hhide : u.hideReg1 = u'.hideReg1 := Host.Outcome.next.inj h
  have hmiso := congrArg State.miso hhide
  have hresponse := congrArg State.response hhide
  exact ⟨hhide, hmiso, hresponse⟩

end Sys2Proof.Machine

namespace Sys2Proof.Machine

/-! A stored register reads back what was written (rules R51, R211 and R213) -/

/-- The registers that MemReadByte reads from storage: STATUS is computed, and the three others read as
draws (rule R211). -/
theorem readByte_stored {b : Block} {a : BitVec 5} {r : Reg0} (hb : b.bank = .bank0)
    (ha : reg0At b.cfg.layout a = some r) (hr : r ∉ [.status, .auxStatus, .u08, .u09])
    (hlock : r = .feature ∨ r = .dynpd → b.featureLocked = false) (j : Nat) (d : Byte) :
    readByte b a j d = storedRead b r j d := by
  have ha7 : a ≠ 0x07#5 := by
    rintro rfl
    obtain rfl : Reg0.status = r := Option.some.inj ((reg0At_status _).symm.trans ha)
    exact hr (by decide)
  rw [readByte, if_neg ha7, if_neg (by rw [hb]; decide), ha]
  cases r with
  | status | auxStatus | u08 | u09 => exact absurd (by decide) hr
  | feature => simp [hlock (.inl rfl)]
  | dynpd => simp [hlock (.inr rfl)]
  | _ => rfl

/-- With a clear mask the stored byte is read as it is (rule R51). -/
theorem storedRead_of_clear_mask {b : Block} {r : Reg0} {j : Nat} {v : Byte}
    (hm : readMaskOf b.cfg r = 0x00#8) (hv : (b.reg0.bytes r)[j]? = some v) (d : Byte) :
    storedRead b r j d = v := by
  rw [storedRead, hv]
  simp only [hm, BitVec.not_zero, BitVec.and_allOnes, BitVec.and_zero, BitVec.or_zero]

/-- A MemWrite of data that fits leaves the data in the first bytes of the register (rule R213). -/
theorem memWrite0_stores {b : Block} {r : Reg0} {data : List Byte} {j : Nat} {v : Byte} (hr : r ≠ .status)
    (hlen : data.length ≤ width0 r) (hv : data[j]? = some v) :
    ∃ b', memWrite0 b r data = .ok b' ∧ (b'.reg0.bytes r)[j]? = some v := by
  have hj : j < data.length := (List.getElem?_eq_some_iff.mp hv).1
  refine ⟨_, by rw [memWrite0, if_neg (by omega), if_neg (by omega)], ?_⟩
  dsimp only
  rw [bank0_bytes_setBytes_same _ _ _ hr]
  simp [writtenByte, hv, show j < width0 r by omega]

/-- Of at most one byte, the byte at a position is the only one. -/
theorem eq_singleton_of_getElem? {data : List Byte} {j : Nat} {v : Byte} (hlen : data.length ≤ 1)
    (hv : data[j]? = some v) : data = [v] ∧ j = 0 := by
  obtain ⟨hj, rfl⟩ := List.getElem?_eq_some_iff.mp hv
  obtain rfl : j = 0 := by omega
  obtain ⟨x, rfl⟩ := List.length_eq_one_iff.mp (show data.length = 1 by omega)
  exact ⟨rfl, rfl⟩

/-- A CONFIG write stores its byte, whether or not it draws the FIFOs (rule R165). -/
@[simp] theorem powerOffFifos_reg0 (b : Block) (old new : Byte) :
    (powerOffFifos b old new).reg0 = b.reg0 := by
  unfold powerOffFifos
  split_ifs
  · rfl
  · rfl

/-- In bank 0 a write that fits into a storage register is applied and leaves the data there: DYNPD and
FEATURE where the lock is open (rules R221 and R222), and CONFIG where CE is low (rule R217). -/
theorem writeRegister_stores {b : Block} {a : BitVec 5} {r : Reg0} {data : List Byte} {j : Nat} {v : Byte}
    (hb : b.bank = .bank0) (ha : reg0At b.cfg.layout a = some r) (hr : r ∉ [.status, .auxStatus])
    (hlock : r = .feature ∨ r = .dynpd → b.featureLocked = false) (hce : r = .config → b.ce = false)
    (hlen : data.length ≤ width0 r) (hv : data[j]? = some v) :
    ∃ b', writeRegister b a data = .ok b' ∧ (b'.reg0.bytes r)[j]? = some v := by
  rw [writeRegister, if_neg (by rw [hb]; decide), ha]
  cases r with
  | status | auxStatus => exact absurd (by decide) hr
  | config =>
    obtain ⟨rfl, rfl⟩ := eq_singleton_of_getElem? hlen hv
    have hw : writeConfig b [v]
        = .ok (powerOffFifos { b with reg0 := { b.reg0 with config := v } } b.reg0.config v) := by
      simp [writeConfig, hce rfl]
    exact ⟨_, hw, by rw [powerOffFifos_reg0]; rfl⟩
  | feature =>
    obtain ⟨rfl, rfl⟩ := eq_singleton_of_getElem? hlen hv
    have hw : writeFeature b [v] = .ok { b with reg0 := { b.reg0 with feature := v } } := by
      simp [writeFeature, hlock (.inl rfl)]
    exact ⟨_, hw, rfl⟩
  | dynpd =>
    have hopen : ¬b.featureLocked = true := by simp [hlock (.inr rfl)]
    dsimp only
    rw [writeDynpd, if_neg hopen]
    exact memWrite0_stores (by decide) hlen hv
  | _ => exact memWrite0_stores (by decide) hlen hv

/-- Settles O35: the write stores the bytes and keeps bank, lock and parameters, so the read finds them. -/
theorem writtenBytesReadBack : Obligations.WrittenBytesReadBack := by
  intro s a r data j d v hb hlock hce ha hr hm hlen hv
  have hr' : r ∉ [.status, .auxStatus] := fun h =>
    hr (show r ∈ [.status, .auxStatus] ++ [.u08, .u09] from List.mem_append_left _ h)
  obtain ⟨b', hw, hstored⟩ := writeRegister_stores hb ha hr' hlock hce hlen hv
  have hu : update (.wRegister a data) s.blk = .ok b' := hw
  have hk := update_keeps hu
  have hbank : b'.bank = .bank0 := (update_bank hu (by simp)).trans hb
  refine ⟨_, by rw [exec_wRegister, hw, conclude_ok], ?_⟩
  dsimp only
  rw [readByte_stored hbank (hk.cfg ▸ ha) hr (fun h => hk.lock (hlock h))]
  exact storedRead_of_clear_mask (hk.cfg ▸ hm) hstored d

end Sys2Proof.Machine

namespace Sys2Proof.Machine

/-! Register storage (rules R87, R164, R170 and R212) -/

/-- A byte is its upper three bits followed by its lower five, a register command's fields (rule R101). -/
theorem extractLsb'_append_byte (c : Byte) : c.extractLsb' 5 3 ++ c.extractLsb' 0 5 = c := by
  have hjoin := BitVec.extractLsb'_append_extractLsb'_eq_extractLsb' (x := c)
    (len₂ := 3) (Nat.zero_add 5).symm
  exact hjoin.trans BitVec.extractLsb'_eq_self

/-- Only the command bytes 001AAAAA select W_REGISTER (rule R101). -/
theorem eq_append_of_decodeByte_wRegister {c : Byte} {a : BitVec 5} (h : decodeByte c = .wRegister a) :
    c = 0b001#3 ++ a := by
  unfold decodeByte at h
  split_ifs at h with _ hop
  cases h
  rw [← hop, extractLsb'_append_byte]

theorem decodeActivate_ne_wRegister (data data' : List Byte) (a : BitVec 5) :
    decodeActivate data ≠ .ok (.wRegister a data') := by
  unfold decodeActivate
  split
  · split_ifs <;> simp
  · simp

/-- Only the bytes 001AAAAA and the data decode to W_REGISTER (rule R101). -/
theorem bytes_of_decodeFrame_wRegister {c : Byte} {data data' : List Byte} {a : BitVec 5}
    (h : decodeFrame c data = .ok (.wRegister a data')) : c = 0b001#3 ++ a ∧ data = data' := by
  unfold decodeFrame at h
  split at h
  case h_2 hc =>
    cases h
    exact ⟨eq_append_of_decodeByte_wRegister hc, rfl⟩
  case h_3 => exact absurd h (decodeActivate_ne_wRegister _ _ _)
  all_goals cases h

/-- The transaction `t` carries a W_REGISTER in whole bytes (rule R101). -/
def Txn.WritesRegister (t : Txn) : Prop :=
  t.bit = 0 ∧ ∃ (a : BitVec 5) (data : List Byte), t.bytes = (0b001#3 ++ a) :: data

/-- What the end of a transaction does to register storage: nothing, or, where it is a W_REGISTER, a change
in the selected bank alone (rule R212). -/
theorem ended_registers {t : Txn} {b b' : Block} (h : b.Ended t b') :
    (b'.reg0 = b.reg0 ∧ b'.reg1 = b.reg1)
      ∨ t.WritesRegister
        ∧ ((b.bank = .bank1 ∧ b'.reg0 = b.reg0) ∨ (b.bank = .bank0 ∧ b'.reg1 = b.reg1)) := by
  obtain ⟨code, bytes, rfl⟩ | rfl | ⟨c, data, i, hbit, hbytes, hdec, hu⟩ := h
  · exact .inl ⟨rfl, rfl⟩
  · exact .inl ⟨rfl, rfl⟩
  · obtain hsame | ⟨a, data', rfl, hone⟩ := update_registers hu
    · exact .inl hsame
    · obtain ⟨rfl, rfl⟩ := bytes_of_decodeFrame_wRegister hdec
      exact .inr ⟨⟨hbit, a, data, hbytes⟩, hone⟩

/-- What a step other than power-on does to register storage: nothing, or, where it ends a W_REGISTER
transaction, a change in the selected bank alone (rules R87, R164 and R170). -/
theorem step_registers {s u : State} (h : step s = .next u) (hp : s.agenda.head? ≠ some .powerOn) :
    (u.blk.reg0 = s.blk.reg0 ∧ u.blk.reg1 = s.blk.reg1)
      ∨ ∃ t rest, EndsFrame s t rest ∧ t.WritesRegister
        ∧ ((s.blk.bank = .bank1 ∧ u.blk.reg0 = s.blk.reg0)
          ∨ (s.blk.bank = .bank0 ∧ u.blk.reg1 = s.blk.reg1)) := by
  obtain ⟨-, rfl⟩ | ⟨e, rest, ha, rfl, -⟩ | ⟨t, rest, v, hf, hE, rfl⟩ := step_cases h
  · exact .inl ⟨rfl, rfl⟩
  · have he : e ≠ .powerOn := by
      rintro rfl
      exact hp (by rw [ha]; rfl)
    obtain ⟨-, hkeep, -⟩ := passive_keeps e { s with agenda := rest }
    obtain ⟨-, -, hreg0, hreg1, -⟩ := hkeep he
    exact .inl ⟨hreg0, hreg1⟩
  · obtain hsame | ⟨hw, hone⟩ := ended_registers (ended_of_ends hE)
    · exact .inl hsame
    · exact .inr ⟨t, rest, hf, hw, hone⟩

/-- Settles O29: a step changes no storage, or ends a W_REGISTER and changes that of one bank alone, the
selected one. -/
theorem onlyWRegisterChangesRegisters : Obligations.OnlyWRegisterChangesRegisters := by
  intro s u h hp
  obtain ⟨hreg0, hreg1⟩ | ⟨t, rest, ⟨ha, -, ht⟩, ⟨hbit, a, data, hbytes⟩, hone⟩ := step_registers h hp
  · exact ⟨fun hne => absurd hreg0 hne, fun hne => absurd hreg1 hne⟩
  · have hrise : s.agenda.head? = some (.csn true) := by rw [ha]; rfl
    obtain ⟨hbank, hreg0⟩ | ⟨hbank, hreg1⟩ := hone
    · exact ⟨fun hne => absurd hreg0 hne, fun _ => ⟨hrise, hbank, t, a, data, ht, hbit, hbytes⟩⟩
    · exact ⟨fun _ => ⟨hrise, hbank, t, a, data, ht, hbit, hbytes⟩, fun hne => absurd hreg1 hne⟩

end Sys2Proof.Machine

namespace Sys2Proof

/-! Decoding and encoding (rules R100 to R108) -/

/-- The byte that selects a command; a reserved one is its own byte (rules R101 to R105). -/
def Command.byte : Command → Byte
  | .rRegister a => 0b000#3 ++ a
  | .wRegister a => 0b001#3 ++ a
  | .activate => 0x50#8
  | .rRxPlWid => 0x60#8
  | .rRxPayload => 0x61#8
  | .wTxPayload => 0xA0#8
  | .wTxPayloadAck p => 0b10101#5 ++ p
  | .flushTx => 0xE1#8
  | .flushRx => 0xE2#8
  | .reserved c => c

theorem byte_command (i : Instr) : i.command.byte = i.commandByte := by cases i <;> rfl

/-- A byte is its upper five bits followed by its lower three, the fields of format PIPE (rule R103). -/
theorem extractLsb'_append_pipe (c : Byte) : c.extractLsb' 3 5 ++ c.extractLsb' 0 3 = c := by
  have hjoin := BitVec.extractLsb'_append_extractLsb'_eq_extractLsb' (x := c)
    (len₂ := 5) (Nat.zero_add 3).symm
  exact hjoin.trans BitVec.extractLsb'_eq_self

/-- Decoding drops no bit of the command byte (rule R106). -/
theorem byte_decodeByte (c : Byte) : (decodeByte c).byte = c := by
  unfold decodeByte
  split_ifs with hread hwrite hactivate hwidth hread' hpayload hpipe hflushTx hflushRx
  · rw [Command.byte, ← hread]
    exact Machine.extractLsb'_append_byte c
  · rw [Command.byte, ← hwrite]
    exact Machine.extractLsb'_append_byte c
  · exact hactivate.symm
  · exact hwidth.symm
  · exact hread'.symm
  · exact hpayload.symm
  · rw [Command.byte, ← hpipe.1]
    exact extractLsb'_append_pipe c
  · exact hflushTx.symm
  · exact hflushRx.symm
  · rfl

/-- A decoded pipe is 0 to 5 (rule R103). -/
theorem pipe_le_of_decodeByte {c : Byte} {p : BitVec 3} (h : decodeByte c = .wTxPayloadAck p) :
    p ≤ 5#3 := by
  unfold decodeByte at h
  split_ifs at h with _ _ _ _ _ _ hpipe
  cases h
  exact hpipe.2

/-- An instruction whose command some byte selects is well-formed (rule R107). -/
theorem wf_of_decodeByte {c : Byte} {i : Instr} (h : decodeByte c = i.command) : i.wf = true := by
  cases i with
  | wTxPayloadAck p data => exact decide_eq_true (pipe_le_of_decodeByte h)
  | _ => rfl

/-- The command byte of a well-formed instruction selects its command (rules R101 to R106). -/
theorem decodeByte_commandByte {i : Instr} (h : i.wf = true) : decodeByte i.commandByte = i.command := by
  cases i with
  | rRegister a data => exact Laws.CommandSelected.rRegister a data h
  | wRegister a data => exact Laws.CommandSelected.wRegister a data h
  | activateBank => exact Laws.CommandSelected.activateBank h
  | activateFeature => exact Laws.CommandSelected.activateFeature h
  | rRxPlWid data => exact Laws.CommandSelected.rRxPlWid data h
  | rRxPayload data => exact Laws.CommandSelected.rRxPayload data h
  | wTxPayload data => exact Laws.CommandSelected.wTxPayload data h
  | wTxPayloadAck p data => exact Laws.CommandSelected.wTxPayloadAck p data h
  | flushTx data => exact Laws.CommandSelected.flushTx data h
  | flushRx data => exact Laws.CommandSelected.flushRx data h

/-- An ACTIVATE that decodes has the one argument byte of its variant (rule R104). -/
theorem dataBytes_of_decodeActivate {data : List Byte} {i : Instr} (h : decodeActivate data = .ok i) :
    i.command = .activate ∧ i.dataBytes = data := by
  unfold decodeActivate at h
  split at h
  · split_ifs at h with hbank hfeature
    · cases h
      exact ⟨rfl, by rw [hbank]; rfl⟩
    · cases h
      exact ⟨rfl, by rw [hfeature]; rfl⟩
  · cases h

/-- A transaction decodes to an instruction exactly when its command byte selects the instruction's command
and its data bytes are the instruction's (rules R100 and R106). -/
theorem decodeFrame_eq_ok_iff {c : Byte} {data : List Byte} {i : Instr} :
    decodeFrame c data = .ok i ↔ decodeByte c = i.command ∧ i.dataBytes = data := by
  constructor
  · intro h
    unfold decodeFrame at h
    split at h
    case h_3 hc =>
      obtain ⟨hcommand, hdata⟩ := dataBytes_of_decodeActivate h
      exact ⟨hc.trans hcommand.symm, hdata⟩
    case h_10 => cases h
    all_goals
      cases h
      exact ⟨‹_›, rfl⟩
  · rintro ⟨hc, rfl⟩
    rw [decodeFrame, hc]
    cases i <;> rfl

theorem decodeFrame_encode {i : Instr} (h : i.wf = true) :
    decodeFrame i.commandByte i.dataBytes = .ok i :=
  decodeFrame_eq_ok_iff.mpr ⟨decodeByte_commandByte h, rfl⟩

/-- Settles O1: the command byte selects the command, and the data bytes are the instruction's. -/
theorem decodeOfEncodeIsIdentity : Obligations.DecodeOfEncodeIsIdentity :=
  fun i h => ⟨i.commandByte, i.dataBytes, rfl, decodeFrame_encode h⟩

/-- Settles O2: the command byte is the one byte that selects its command, and the data bytes are the
instruction's. -/
theorem encodeOfDecodeIsIdentity : Obligations.EncodeOfDecodeIsIdentity := by
  intro c data i h
  obtain ⟨hc, hdata⟩ := decodeFrame_eq_ok_iff.mp h
  have hbyte : i.commandByte = c := by rw [← byte_command, ← hc, byte_decodeByte]
  exact ⟨wf_of_decodeByte hc, by rw [encode, hbyte, hdata]⟩

/-! The command-byte space (rule R105) -/

/-- The opcode field of R_REGISTER is the range 0x00 to 0x1F (rule R105). -/
theorem readOpcode_iff (c : Byte) : c.extractLsb' 5 3 = 0b000#3 ↔ c.toNat ≤ 0x1F := by
  simp only [BitVec.toNat_eq, BitVec.extractLsb'_toNat, Nat.shiftRight_eq_div_pow, BitVec.toNat_ofNat]
  omega

/-- The opcode field of W_REGISTER is the range 0x20 to 0x3F (rule R105). -/
theorem writeOpcode_iff (c : Byte) :
    c.extractLsb' 5 3 = 0b001#3 ↔ 0x20 ≤ c.toNat ∧ c.toNat ≤ 0x3F := by
  simp only [BitVec.toNat_eq, BitVec.extractLsb'_toNat, Nat.shiftRight_eq_div_pow, BitVec.toNat_ofNat]
  omega

/-- The fields of W_TX_PAYLOAD_ACK with a pipe are the range 0xA8 to 0xAD (rule R105). -/
theorem pipeFields_iff (c : Byte) :
    (c.extractLsb' 3 5 = 0b10101#5 ∧ c.extractLsb' 0 3 ≤ 5#3) ↔ 0xA8 ≤ c.toNat ∧ c.toNat ≤ 0xAD := by
  simp only [BitVec.toNat_eq, BitVec.le_def, BitVec.extractLsb'_toNat, Nat.shiftRight_eq_div_pow,
    BitVec.toNat_ofNat]
  omega

/-- Settles O3: the conditions of `decodeByte` are ranges of the byte's value, and no two of them meet. -/
theorem commandByteSpaceIsTheOpcodeMap : Obligations.CommandByteSpaceIsTheOpcodeMap := by
  intro c
  simp only [decodeByte, readOpcode_iff, writeOpcode_iff, pipeFields_iff]
  simp only [BitVec.toNat_eq, BitVec.toNat_ofNat]
  refine ⟨?_, ?_, ?_, ?_, ?_, ?_, ?_, ?_, ?_, ?_, ?_, ?_, ?_, ?_, ?_⟩
  all_goals
    intro h
    simp (disch := omega) only [if_pos, if_neg, BitVec.setWidth_eq_extractLsb']

/-- Settles O4: each is the encoding of its instruction (rules R101 to R104). -/
theorem writtenOutTransactionsDecode : Obligations.WrittenOutTransactionsDecode :=
  ⟨decodeFrame_encode (i := .rRegister 0x1D#5 [0x00#8]) rfl,
    decodeFrame_encode (i := .wRegister 0x07#5 [0x70#8]) rfl,
    decodeFrame_encode (i := .activateBank) rfl,
    decodeFrame_encode (i := .activateFeature) rfl,
    decodeFrame_encode (i := .wTxPayloadAck 2#3 [0x41#8]) rfl,
    decodeFrame_encode (i := .flushRx [0x00#8]) rfl⟩

end Sys2Proof

namespace Sys2Proof.Machine

/-! The dispatcher on a ready block's whole-byte transaction (rules R108 and R136) -/

section
variable {t : Txn} {c : Byte} {data : List Byte}

theorem endFrame_of_decodes {s : State} {i : Instr} (hbit : t.bit = 0) (hbytes : t.bytes = c :: data)
    (hready : s.blk.ready = true) (hdec : decodeFrame c data = .ok i) : endFrame t s = exec i s := by
  simp [endFrame, hbit, hbytes, hready, hdec]

theorem endFrame_of_rejected {s : State} {code : RefusalCode} (hbit : t.bit = 0)
    (hbytes : t.bytes = c :: data) (hready : s.blk.ready = true) (hdec : decodeFrame c data = .error code) :
    endFrame t s = .next (s.refuse code (c :: data)) := by
  simp [endFrame, hbit, hbytes, hready, hdec]

/-- The step at the end of a transaction that the decoder rejects: the refusal is taken and the frame is
closed (rules R136 and R270). -/
theorem step_of_rejected {s : State} {rest : List Event} {code : RefusalCode} (hends : EndsFrame s t rest)
    (hbit : t.bit = 0) (hbytes : t.bytes = c :: data) (hready : s.blk.ready = true)
    (hdec : decodeFrame c data = .error code) :
    ∃ u, step s = .next u ∧ u.txn = none ∧ u.blk = { s.blk with
      csn := true, refused := true
      refusals := s.blk.refusals ++ [⟨code, c :: data⟩] } := by
  have hrisen : (s.risen rest).blk.ready = true := hready
  exact ⟨_, by rw [step_of_endsFrame hends, endFrame_of_rejected hbit hbytes hrisen hdec, mapNext_next],
    rfl, rfl⟩

end

/-- A reserved command byte is rejected with RF02, whatever the data bytes (rule R108). -/
theorem decodeFrame_of_reserved {c c' : Byte} (h : decodeByte c = .reserved c') (data : List Byte) :
    decodeFrame c data = .error .rf02ReservedCommand := by
  rw [decodeFrame, h]

/-- An ACTIVATE argument that selects no variant is rejected with RF05 (rules R108 and R190). -/
theorem decodeFrame_of_activateArgument {arg : Byte} (hbank : arg ≠ 0x53#8) (hfeature : arg ≠ 0x73#8) :
    decodeFrame 0x50#8 [arg] = .error .rf05ActivateArgument := by
  have hbyte : decodeByte 0x50#8 = .activate := by decide
  simp [decodeFrame, hbyte, decodeActivate, hbank, hfeature]

/-- Settles O6: the decoder rejects both encodings, and the step takes the refusal. -/
theorem reservedEncodingsAreRefused : Obligations.ReservedEncodingsAreRefused := by
  intro s t rest c data hends hbit hbytes hready
  refine ⟨fun hreserved => ?_, ?_⟩
  · exact step_of_rejected hends hbit hbytes hready (decodeFrame_of_reserved hreserved data)
  · rintro arg rfl rfl hbank hfeature
    exact step_of_rejected hends hbit hbytes hready (decodeFrame_of_activateArgument hbank hfeature)

end Sys2Proof.Machine

namespace Sys2Proof.Machine

/-! A transaction as pin levels (rules R130 to R136) -/

/-- The state in which the bits of `b` have come as the next byte of the transaction `t`: the byte is
appended, and the next output byte is on the bus (rules R133 and R134). -/
def State.received (s : State) (t : Txn) (b : Byte) : State :=
  { s with
    insr := b
    txn := some { t with bytes := t.bytes ++ [b], bit := 0 }
    outsr := outByte t.snap (t.bytes ++ [b]) (t.bytes.length + 1)
    miso := some ((outByte t.snap (t.bytes ++ [b]) (t.bytes.length + 1)).getLsbD 7) }

/-- The bits of a byte in the order of the bus (rule R82). -/
def busBits (b : Byte) : List Bool :=
  [b.getLsbD 7, b.getLsbD 6, b.getLsbD 5, b.getLsbD 4, b.getLsbD 3, b.getLsbD 2, b.getLsbD 1, b.getLsbD 0]

theorem byteEvents_eq_flatMap (b : Byte) : byteEvents b = (busBits b).flatMap bitEvents := rfl

theorem getLsbD_shiftIn (r : Byte) (v : Bool) {k : Nat} (hk : k < 8) :
    (shiftIn r v).getLsbD k = if k = 0 then v else r.getLsbD (k - 1) := by
  cases k with
  | zero => simp [shiftIn]
  | succ k => simp [shiftIn, hk, Nat.lt_of_succ_lt hk]

/-- Eight bits fill the input shift register, whatever it held (rule R132). -/
theorem foldl_shiftIn_busBits (r b : Byte) : (busBits b).foldl shiftIn r = b := by
  refine BitVec.eq_of_getLsbD_eq fun k hk => ?_
  interval_cases k <;> simp [busBits, getLsbD_shiftIn, -BitVec.getLsbD_eq_getElem]

/-- A bit that completes no byte is shifted in (rules R132 and R134). -/
theorem run_bitEvents {s : State} {t : Txn} {v : Bool} {rest : List Event} (ht : s.txn = some t)
    (hsck : s.sck = false) (ha : s.agenda = bitEvents v ++ rest) (hbit : t.bit + 1 ≠ 8) :
    Host.Core.run core 3 s = .next { s with
      agenda := rest
      mosi := v
      insr := shiftIn s.insr v
      txn := some { t with bit := t.bit + 1 }
      miso := some (s.outsr.getLsbD (7 - (t.bit + 1))) } := by
  simp [Host.Core.run, core, step, takeInput, handle, setMosi, setSck, sckRise, sckFall, bitEvents, ha,
    hsck, ht, hbit]

/-- The eighth bit completes its byte (rules R133 and R134). -/
theorem run_bitEvents_eighth {s : State} {t : Txn} {v : Bool} {rest : List Event} (ht : s.txn = some t)
    (hsck : s.sck = false) (ha : s.agenda = bitEvents v ++ rest) (hbit : t.bit + 1 = 8) :
    Host.Core.run core 3 s = .next { s.received t (shiftIn s.insr v) with agenda := rest, mosi := v } := by
  simp [Host.Core.run, core, step, takeInput, handle, setMosi, setSck, sckRise, sckFall, bitEvents, ha,
    hsck, ht, hbit, State.received]

/-- The bits that are left of a byte complete it (rules R132 to R134). -/
theorem run_restOfByte {vs : List Bool} {s : State} {t : Txn} {rest : List Event} (ht : s.txn = some t)
    (hsck : s.sck = false) (ha : s.agenda = vs.flatMap bitEvents ++ rest) (hvs : vs ≠ [])
    (hbit : t.bit + vs.length = 8) :
    Host.Core.run core (3 * vs.length) s = .next { s.received t (vs.foldl shiftIn s.insr) with
      agenda := rest, mosi := vs.getLastD s.mosi } := by
  induction vs generalizing s t with
  | nil => exact absurd rfl hvs
  | cons v ws ih =>
    cases ws with
    | nil => exact run_bitEvents_eighth ht hsck (by simpa using ha) hbit
    | cons w ws =>
      simp only [List.length_cons] at hbit
      have hfirst := run_bitEvents (rest := (w :: ws).flatMap bitEvents ++ rest) ht hsck
        (by simpa using ha) (by omega)
      rw [List.length_cons, Nat.mul_succ, Nat.add_comm]
      exact (run_add_of_run _ hfirst).trans
        (ih (t := { t with bit := t.bit + 1 }) rfl hsck rfl (List.cons_ne_nil _ _)
          (by simp only [List.length_cons]; omega))

/-- Eight bits on the bus are received as their byte (rules R132 to R134). -/
theorem run_byteEvents {s : State} {t : Txn} {b : Byte} {rest : List Event} (ht : s.txn = some t)
    (hbit : t.bit = 0) (hsck : s.sck = false) (ha : s.agenda = byteEvents b ++ rest) :
    Host.Core.run core 24 s = .next { s.received t b with agenda := rest, mosi := b.getLsbD 0 } := by
  have h := run_restOfByte (vs := busBits b) ht hsck (byteEvents_eq_flatMap b ▸ ha)
    (List.cons_ne_nil _ _) (by rw [hbit]; rfl)
  rwa [foldl_shiftIn_busBits] at h

/-- The bus between two bytes of the open transaction `t`: SCK is low, and the inputs `rest` are to come. -/
structure State.BetweenBytes (s : State) (t : Txn) (rest : List Event) : Prop where
  txn : s.txn = some t
  bit : t.bit = 0
  sck : s.sck = false
  agenda : s.agenda = rest

/-- Bytes on the bus are appended to the open transaction, and the block does not change (rules R132 to
R134). -/
theorem run_bytes {bytes : List Byte} {s : State} {t : Txn} {rest : List Event}
    (h : s.BetweenBytes t (bytes.flatMap byteEvents ++ rest)) :
    ∃ u : State, Host.Core.run core (24 * bytes.length) s = .next u ∧ u.blk = s.blk
      ∧ u.BetweenBytes { t with bytes := t.bytes ++ bytes } rest := by
  induction bytes generalizing s t with
  | nil => exact ⟨s, rfl, rfl, by simpa using h⟩
  | cons b bytes ih =>
    obtain ⟨ht, hbit, hsck, ha⟩ := h
    have hfirst := run_byteEvents (rest := bytes.flatMap byteEvents ++ rest) ht hbit hsck (by simpa using ha)
    obtain ⟨u, hrun, hblk, hu⟩ := ih (s := { s.received t b with
      agenda := bytes.flatMap byteEvents ++ rest, mosi := b.getLsbD 0 }) ⟨rfl, rfl, hsck, rfl⟩
    refine ⟨u, ?_, hblk, by simpa [hbit] using hu⟩
    rw [List.length_cons, Nat.mul_succ, Nat.add_comm]
    exact (run_add_of_run _ hfirst).trans hrun

/-- The CSN falling edge opens a transaction of no bytes with the snapshot (rule R131). -/
theorem step_of_csnFall {s : State} {rest : List Event} (ha : s.agenda = .csn false :: rest)
    (hcsn : s.blk.csn = true) (ht : s.txn = none) (hsck : s.sck = false) :
    ∃ u, step s = .next u ∧ u.blk = s.blk.opened
      ∧ u.BetweenBytes { snap := s.blk.opened, bytes := [], bit := 0 } rest := by
  refine ⟨csnFall { s with agenda := rest }, by simp [step, takeInput, ha, handle, setCsn, hcsn], ?_⟩
  rw [csnFall, ht]
  exact ⟨rfl, rfl, rfl, hsck, rfl⟩

theorem run_one (s : State) : Host.Core.run core 1 s = step s := by
  obtain ⟨u, hu⟩ := everyStepAnswersANextState s
  rw [run_succ_of_step hu, hu]
  rfl

/-- A whole frame as pin levels ends in the step of its CSN rising edge, with the bytes received (rules R131
to R134). -/
theorem run_frameEvents {s : State} {bytes : List Byte} {rest : List Event} (hcsn : s.blk.csn = true)
    (ht : s.txn = none) (hsck : s.sck = false) (ha : s.agenda = frameEvents bytes ++ rest) :
    ∃ u : State, Host.Core.run core (24 * bytes.length + 2) s = step u ∧ u.blk = s.blk.opened
      ∧ u.BetweenBytes { snap := s.blk.opened, bytes := bytes, bit := 0 } (.csn true :: rest) := by
  obtain ⟨v, hv, hvblk, hvbus⟩ := step_of_csnFall
    (rest := bytes.flatMap byteEvents ++ .csn true :: rest) (by simp [ha, frameEvents]) hcsn ht hsck
  obtain ⟨u, hu, hublk, hubus⟩ := run_bytes hvbus
  refine ⟨u, ?_, hublk.trans hvblk, hubus⟩
  exact (run_succ_of_step hv).trans ((run_add_of_run 1 hu).trans (run_one u))

/-- Settles O13: the frame's bytes are received as they were sent, so the CSN rising edge decodes them to the
instruction and runs it. -/
theorem pinLevelsOfAFrameRunTheInstruction : Obligations.PinLevelsOfAFrameRunTheInstruction := by
  intro s i rest hwf hready hcsn ht hsck ha
  obtain ⟨u, hrun, hblk, hbus⟩ := run_frameEvents hcsn ht hsck ha
  obtain ⟨htxn, -, husck, hagenda⟩ := hbus
  have hends : EndsFrame u _ rest := ⟨hagenda, by rw [hblk]; rfl, htxn⟩
  have hrisen : (u.risen rest).blk = { s.blk with draws := s.blk.draws + 1 } := by
    simp [State.risen, hblk, Block.opened, hcsn]
  refine ⟨u.risen rest, rfl, hrisen, htxn, husck, ?_⟩
  rw [hrun, step_of_endsFrame hends,
    endFrame_of_decodes rfl rfl (by rw [hrisen]; exact hready) (decodeFrame_encode hwf)]

end Sys2Proof.Machine

namespace Sys2Proof.Machine

/-! One byte on the bus, pin by pin (rules R132 to R134) -/

/-- Settles O11: the bits are received as their byte, and the bit count is 0 again. -/
theorem busBitsAssembleTheByte : Obligations.BusBitsAssembleTheByte := by
  intro s t b rest ht hbit hsck ha
  rw [run_byteEvents ht hbit hsck ha, State.received, hbit]

/-- While a byte is not complete, each of its bits moves MISO one bit down the output byte (rule R134). -/
theorem run_startOfByte_miso {vs : List Bool} {s : State} {t : Txn} {rest : List Event}
    (ht : s.txn = some t) (hsck : s.sck = false) (hmiso : s.miso = some (s.outsr.getLsbD (7 - t.bit)))
    (ha : s.agenda = vs.flatMap bitEvents ++ rest) (hbit : t.bit + vs.length < 8) :
    ∃ u : State, Host.Core.run core (3 * vs.length) s = .next u
      ∧ u.miso = some (s.outsr.getLsbD (7 - (t.bit + vs.length))) ∧ u.sck = false := by
  induction vs generalizing s t with
  | nil => exact ⟨s, rfl, hmiso, hsck⟩
  | cons v vs ih =>
    rw [List.length_cons] at hbit ⊢
    have hfirst := run_bitEvents (rest := vs.flatMap bitEvents ++ rest) ht hsck (by simpa using ha)
      (by omega)
    obtain ⟨u, hrun, humiso, husck⟩ := ih (t := { t with bit := t.bit + 1 })
      (s := { s with
        agenda := vs.flatMap bitEvents ++ rest
        mosi := v
        insr := shiftIn s.insr v
        txn := some { t with bit := t.bit + 1 }
        miso := some (s.outsr.getLsbD (7 - (t.bit + 1))) })
      rfl hsck rfl rfl (by simp only; omega)
    refine ⟨u, ?_, ?_, husck⟩
    · rw [Nat.mul_succ, Nat.add_comm]
      exact (run_add_of_run _ hfirst).trans hrun
    · rw [humiso, Nat.add_assoc, Nat.add_comm 1]

/-- Settles O12: of the byte's eight bits, the first `k` have moved MISO `k` bits down. -/
theorem misoShowsTheOutputByteInOrder : Obligations.MisoShowsTheOutputByteInOrder := by
  intro s t b rest k ht hbit hsck hmiso ha hk
  have hlen : ((busBits b).take k).length = k := List.length_take_of_le (Nat.le_of_lt hk)
  have hsplit : s.agenda = ((busBits b).take k).flatMap bitEvents
      ++ (((busBits b).drop k).flatMap bitEvents ++ rest) := by
    rw [ha, byteEvents_eq_flatMap, ← List.append_assoc, ← List.flatMap_append, List.take_append_drop]
  have h := run_startOfByte_miso ht hsck (by rw [hbit]; exact hmiso) hsplit (by rw [hbit, hlen]; omega)
  rwa [hlen, hbit, Nat.zero_add] at h

end Sys2Proof.Machine

namespace Sys2Proof.Machine

/-! The bytes out of a transaction (rules R135 and R272) -/

/-- A command other than the three reads returns nothing: each byte out in its data phase is drawn. -/
theorem outCommand_of_returnsNothing {cmd : Command} (hreg : ∀ a, cmd ≠ .rRegister a)
    (hwid : cmd ≠ .rRxPlWid) (hpay : cmd ≠ .rRxPayload) (snap : Block) (k : Nat) :
    outCommand snap cmd k = snap.misoDraw k := by
  cases cmd with
  | rRegister a => exact absurd rfl (hreg a)
  | rRxPlWid => exact absurd rfl hwid
  | rRxPayload => exact absurd rfl hpay
  | _ => rfl

/-- A ready block draws the byte out during the command byte; then the command says what it shifts out
(rule R135). -/
theorem outByte_cons_of_ready {snap : Block} (hready : snap.ready = true) (c : Byte) (data : List Byte)
    (k : Nat) : outByte snap (c :: data) k =
      if k = 0 then snap.misoDraw k else outCommand snap (decodeByte c) k := by
  simp [outByte, hready]

/-- Every byte out of a command that returns nothing is a draw. -/
theorem shiftsOutDraws_encode {i : Instr} (hwf : i.wf = true) (hreg : ∀ a, i.command ≠ .rRegister a)
    (hwid : i.command ≠ .rRxPlWid) (hpay : i.command ≠ .rRxPayload) (s : State) :
    s.ShiftsOutDraws (encode i) := by
  intro hready
  refine List.map_congr_left fun k _ => ?_
  rw [encode, outByte_cons_of_ready hready, decodeByte_commandByte hwf,
    outCommand_of_returnsNothing hreg hwid hpay, ite_self, Block.misoDraw]

/-- The response to an instruction is its bytes out, whether or not it is refused (rules R135 and R270). -/
theorem response_of_exec {i : Instr} {s u : State} (h : exec i s = .next u) :
    u.response = outBytes s.seen (encode i) := by
  obtain ⟨b, -, rfl⟩ | ⟨code, -, rfl⟩ := exec_cases h
  · rfl
  · rfl

/-- Settles O55: the instruction's command byte selects a command that returns nothing. -/
theorem writeCommandsShiftOutDraws : Obligations.WriteCommandsShiftOutDraws :=
  fun s _ _ hwf hreg hwid hpay hexec =>
    ⟨shiftsOutDraws_encode hwf hreg hwid hpay s, response_of_exec hexec⟩

end Sys2Proof.Machine

namespace Sys2Proof.Machine

/-! The CSN rising edge and the CE pin (rules R136 to R141) -/

/-- Settles O5: the dispatcher runs the instruction that the bytes decode to. -/
theorem stepRunsTheDecodedInstruction : Obligations.StepRunsTheDecodedInstruction := by
  intro s t rest c data i hends hbit hbytes hready hdec
  have hrisen : (s.risen rest).blk.ready = true := hready
  rw [step_of_endsFrame hends, endFrame_of_decodes hbit hbytes hrisen hdec]

section
variable {s : State} {t : Txn} {rest : List Event}

/-- A partial byte is refused before the dispatcher looks at anything else (rules R137 and R276). -/
theorem endFrame_of_partialByte (hbit : t.bit ≠ 0) :
    endFrame t s = .next (s.refuse .rf01PartialByte t.bytes) := if_pos hbit

/-- A whole-byte transaction that is empty or meets a block that is not ready runs no command (rules R138
and R139). -/
theorem endFrame_of_noCommand (hbit : t.bit = 0) (hnone : t.bytes = [] ∨ s.blk.ready = false) :
    endFrame t s = .next (s.answer t.bytes) := by
  cases hbytes : t.bytes with
  | nil => simp [endFrame, hbit, hbytes]
  | cons c data =>
    have hready : s.blk.ready = false := hnone.resolve_left (by simp [hbytes])
    simp [endFrame, hbit, hbytes, hready]

/-- The step at the end of a transaction that runs no command: only CSN moves in the block. -/
theorem step_of_noCommand (hends : EndsFrame s t rest) (hbit : t.bit = 0)
    (hnone : t.bytes = [] ∨ s.blk.ready = false) :
    ∃ u, step s = .next u ∧ u.agenda = rest ∧ u.txn = none ∧ u.blk = { s.blk with csn := true } := by
  have hrisen : t.bytes = [] ∨ (s.risen rest).blk.ready = false := hnone
  exact ⟨_, by rw [step_of_endsFrame hends, endFrame_of_noCommand hbit hrisen, mapNext_next], rfl, rfl, rfl⟩

end

/-- Settles O8: the refusal is taken, and then the frame is closed. -/
theorem partialByteIsRefused : Obligations.PartialByteIsRefused :=
  fun _ _ _ hends hbit =>
    ⟨_, by rw [step_of_endsFrame hends, endFrame_of_partialByte hbit, mapNext_next], rfl, rfl⟩

/-- Settles O9: the test of the boot state comes after that of a partial byte and before the command. -/
theorem notReadyTransactionHasNoEffect : Obligations.NotReadyTransactionHasNoEffect := by
  refine ⟨fun b bytes k hready => if_pos hready, fun s t rest hends hready => ⟨fun hbit => ?_, ?_⟩⟩
  · obtain ⟨u, hu, -, htxn, hblk⟩ := step_of_noCommand hends hbit (.inr hready)
    exact ⟨u, hu, htxn, hblk⟩
  · exact partialByteIsRefused s t rest hends

/-- CSN falling and rising at once opens a transaction that ends with no byte (rules R131 and R139). -/
theorem step_of_csnPulse {s : State} {rest : List Event} (ha : s.agenda = .csn false :: .csn true :: rest)
    (hcsn : s.blk.csn = true) (ht : s.txn = none) :
    ∃ u, step s = .next u ∧ u.blk = s.blk.opened
      ∧ EndsFrame u { snap := s.blk.opened, bytes := [], bit := 0 } rest := by
  refine ⟨csnFall { s with agenda := .csn true :: rest },
    by simp [step, takeInput, ha, handle, setCsn, hcsn], ?_⟩
  rw [csnFall, ht]
  exact ⟨rfl, rfl, rfl, rfl⟩

/-- Settles O10: a transaction of no byte runs no command, and CSN falling and rising at once makes one. -/
theorem emptyTransactionHasNoEffect : Obligations.EmptyTransactionHasNoEffect := by
  refine ⟨fun s t rest hends hbit hbytes => step_of_noCommand hends hbit (.inl hbytes), ?_⟩
  intro s rest hcsn ht ha
  obtain ⟨v, hfall, hvblk, hends⟩ := step_of_csnPulse ha hcsn ht
  obtain ⟨u, hrise, hagenda, htxn, hublk⟩ := step_of_noCommand hends rfl (.inl rfl)
  have hblk : u.blk = { s.blk with draws := s.blk.draws + 1 } := by
    simp [hublk, hvblk, Block.opened, hcsn]
  exact ⟨u, (run_succ_of_step hfall).trans ((run_one v).trans hrise), hagenda, htxn, hblk⟩

/-- Settles O56: the pin action is the step. -/
theorem cePinTakesItsLevel : Obligations.CePinTakesItsLevel := by
  intro s v rest ha
  rw [step, takeInput, ha]
  rfl

end Sys2Proof.Machine

namespace Sys2Proof.Machine

/-! The derived mode (rule R161) -/

/-- The mode is computed from PWR_UP, PRIM_RX and CE alone. -/
theorem mode_congr {b b' : Block} (hup : pwrUpOf b'.cfg b'.reg0.config = pwrUpOf b.cfg b.reg0.config)
    (hrx : primRxOf b'.cfg b'.reg0.config = primRxOf b.cfg b.reg0.config) (hce : b'.ce = b.ce) :
    b'.mode = b.mode := by
  rw [Block.mode, hup, hrx, hce, Block.mode]

/-- Nothing but CONFIG and CE moves the mode of a block with given parameters. -/
theorem mode_eq_of_config_eq {b b' : Block} (hcfg : b'.cfg = b.cfg)
    (hconfig : b'.reg0.config = b.reg0.config) (hce : b'.ce = b.ce) : b'.mode = b.mode :=
  mode_congr (by rw [hcfg, hconfig]) (by rw [hcfg, hconfig]) hce

/-- Settles O26: along the branches of the definition. -/
theorem derivedModeFollowsBitsAndPin : Obligations.DerivedModeFollowsBitsAndPin := by
  intro b
  unfold Block.mode pwrUpOf primRxOf
  split_ifs with hup hce hrx
  · simp [hup, -BitVec.getLsbD_eq_getElem]
  · simp [hup, hce, -BitVec.getLsbD_eq_getElem]
  · simp [hup, hce, hrx, -BitVec.getLsbD_eq_getElem]
  · simp [hup, hce, hrx, -BitVec.getLsbD_eq_getElem]

theorem mode_eq_powerOff_iff (b : Block) :
    b.mode = .powerOff ↔ pwrUpOf b.cfg b.reg0.config = false := (derivedModeFollowsBitsAndPin b).1

end Sys2Proof.Machine

namespace Sys2Proof.Machine

/-! The RadioCore's steps (rules R170 to R175) -/

theorem step_of_agenda {s : State} {e : Event} {rest : List Event} (ha : s.agenda = e :: rest) :
    step s = handle e { s with agenda := rest } := by
  rw [step, takeInput, ha]

/-- The state `u` differs from `s` at most in the flags and the FIFOs (rule R170). -/
def State.SameButFlagsAndFifos (s u : State) : Prop :=
  u = { s with blk := { s.blk with irq := u.blk.irq, txf := u.blk.txf, rxf := u.blk.rxf } }

theorem rxDeliver_frame (p : Pipe) (d : List Byte) (s : State) :
    s.SameButFlagsAndFifos (rxDeliver p d s) := by
  unfold rxDeliver
  split_ifs
  · rfl
  · rfl

theorem txSent_frame (s : State) : s.SameButFlagsAndFifos (txSent s) := by
  unfold txSent
  split
  · rfl
  · split_ifs
    · rfl
    · rfl

theorem txMaxRt_frame (s : State) : s.SameButFlagsAndFifos (txMaxRt s) := by
  unfold txMaxRt
  split_ifs
  · rfl
  · rfl

/-- Settles O24: by the frame of each of the three steps. -/
theorem radioWritesOnlyFlagsAndFifos : Obligations.RadioWritesOnlyFlagsAndFifos := by
  intro e s u hradio h
  cases e with
  | rxDeliver p d =>
    obtain rfl := Host.Outcome.next.inj h
    exact rxDeliver_frame p d s
  | txSent =>
    obtain rfl := Host.Outcome.next.inj h
    exact txSent_frame s
  | txMaxRt =>
    obtain rfl := Host.Outcome.next.inj h
    exact txMaxRt_frame s
  | _ => cases hradio

theorem radioMay_iff (m : Mode) (s : State) :
    radioMay m s = true ↔ s.blk.ready = true ∧ s.txn = none ∧ s.blk.mode = m := by
  simp [radioMay, and_assoc]

/-- The guard that TX_SENT and TX_MAXRT share (rules R172 and R173). -/
def State.MayTransmit (s : State) : Prop :=
  s.blk.ready = true ∧ s.txn = none ∧ s.blk.mode = .transmit ∧ s.blk.txf ≠ []

theorem txSent_of_cons {s : State} {e : TxEntry} {tail : List TxEntry}
    (hradio : radioMay .transmit s = true) (hf : s.blk.txf = e :: tail) :
    txSent s = { s with blk := { s.blk with
      txf := tail, irq := setFlag s.blk.irq s.blk.cfg.irqBits.txDs } } := by
  rw [txSent, hf]
  exact if_pos hradio

theorem txSent_of_not {s : State} (h : ¬s.MayTransmit) : txSent s = s := by
  unfold txSent
  split
  · rfl
  next e rest hf =>
    refine if_neg fun hradio => h ?_
    obtain ⟨hready, ht, hm⟩ := (radioMay_iff _ _).mp hradio
    exact ⟨hready, ht, hm, by simp [hf]⟩

theorem txMaxRt_guard_iff (s : State) :
    (radioMay .transmit s && !s.blk.txf.isEmpty) = true ↔ s.MayTransmit := by
  simp [radioMay_iff, State.MayTransmit, and_assoc]

theorem txMaxRt_of_may {s : State} (h : s.MayTransmit) :
    txMaxRt s = { s with blk := { s.blk with irq := setFlag s.blk.irq s.blk.cfg.irqBits.maxRt } } :=
  if_pos ((txMaxRt_guard_iff s).mpr h)

theorem txMaxRt_of_not {s : State} (h : ¬s.MayTransmit) : txMaxRt s = s :=
  if_neg (mt (txMaxRt_guard_iff s).mp h)

theorem rxDeliver_of_not {p : Pipe} {d : List Byte} {s : State} (h : ¬rxDeliverMay p d s = true) :
    rxDeliver p d s = s := if_neg h

theorem radioMay_of_rxDeliverMay {p : Pipe} {d : List Byte} {s : State}
    (h : rxDeliverMay p d s = true) : radioMay .receive s = true := by
  simp only [rxDeliverMay, Bool.and_eq_true, and_assoc] at h
  exact h.1

/-- Outside a ready block with no transaction open in Receive or Transmit, the guard of no RadioCore step
holds (rule R175). -/
theorem not_radioMay_of_idle {m : Mode} {s : State} (hoff : m ≠ .powerOff) (hstandby : m ≠ .standby)
    (h : s.blk.ready = false ∨ s.txn ≠ none ∨ s.blk.mode = .powerOff ∨ s.blk.mode = .standby) :
    ¬radioMay m s = true := by
  rw [radioMay_iff]
  rintro ⟨hready, ht, rfl⟩
  obtain hnot | hopen | hm | hm := h
  · exact absurd hready (by simp [hnot])
  · exact hopen ht
  · exact hoff hm
  · exact hstandby hm

/-- Settles O25: each step's guard asks for Receive or for Transmit. -/
theorem radioIsIdleOutsideItsModes : Obligations.RadioIsIdleOutsideItsModes := by
  intro e s hradio h
  have hreceive := not_radioMay_of_idle (m := .receive) nofun nofun h
  have htransmit : ¬s.MayTransmit := fun ⟨hready, ht, hm, _⟩ =>
    not_radioMay_of_idle (m := .transmit) nofun nofun h ((radioMay_iff _ s).mpr ⟨hready, ht, hm⟩)
  cases e with
  | rxDeliver p d => exact congrArg _ (rxDeliver_of_not (mt radioMay_of_rxDeliverMay hreceive))
  | txSent => exact congrArg _ (txSent_of_not htransmit)
  | txMaxRt => exact congrArg _ (txMaxRt_of_not htransmit)
  | _ => cases hradio

/-- Settles O58: each step where its guard holds and where it does not. -/
theorem transmitStepsSetTheirFlags : Obligations.TransmitStepsSetTheirFlags := by
  intro s rest
  refine ⟨fun ha => ⟨fun e tail hready ht hm hf => ?_, fun hnot => ?_⟩,
    fun ha => ⟨fun hready ht hm hf => ?_, fun hnot => ?_⟩⟩
  · have hmay := (radioMay_iff .transmit { s with agenda := rest }).mpr ⟨hready, ht, hm⟩
    exact ⟨_, by rw [step_of_agenda ha, handle, txSent_of_cons hmay hf], getLsbD_setFlag _ _⟩
  · exact (step_of_agenda ha).trans (congrArg _ (txSent_of_not (s := { s with agenda := rest }) hnot))
  · have hmay : State.MayTransmit { s with agenda := rest } := ⟨hready, ht, hm, hf⟩
    exact ⟨_, by rw [step_of_agenda ha, handle, txMaxRt_of_may hmay], getLsbD_setFlag _ _⟩
  · exact (step_of_agenda ha).trans (congrArg _ (txMaxRt_of_not (s := { s with agenda := rest }) hnot))

/-- RX_PW_Pp is entry `p` of the six (rule R48). -/
theorem getElem?_rxPw (b : Block) (p : Pipe) :
    [b.reg0.rxPwP0, b.reg0.rxPwP1, b.reg0.rxPwP2, b.reg0.rxPwP3, b.reg0.rxPwP4, b.reg0.rxPwP5][p.val]?
      = some (b.rxPw p) := by
  fin_cases p <;> rfl

theorem dyn_iff (b : Block) (p : Pipe) :
    b.dyn p = true ↔ b.reg0.dynpd.getLsbD p.val = true
      ∧ b.reg0.feature.getLsbD b.cfg.layout.posEnDpl = true ∧ b.featureLocked = false := by
  simp only [Block.dyn, Bool.and_eq_true, Bool.not_eq_true', and_assoc]

theorem payloadOk_iff (d : List Byte) : payloadOk d = true ↔ 1 ≤ d.length ∧ d.length ≤ 32 := by
  simp [payloadOk]

/-- A fixed payload size in 1 to 32 binds where dynamic payload is off (rule R171). -/
theorem lengthAdmitted_iff (b : Block) (p : Pipe) (d : List Byte) :
    b.lengthAdmitted p d = true ↔
      (¬b.dyn p = true → 1 ≤ (b.rxPw p).toNat → (b.rxPw p).toNat ≤ 32 → d.length = (b.rxPw p).toNat) := by
  unfold Block.lengthAdmitted
  split_ifs with hbinds
  · simp [hbinds]
  · refine iff_of_true rfl fun hdyn hlow hhigh => absurd ⟨?_, hlow, hhigh⟩ hbinds
    simpa using hdyn

/-- The guard of RX_DELIVER, condition by condition (rule R171). -/
theorem rxDeliverMay_iff (p : Pipe) (d : List Byte) (s : State) :
    rxDeliverMay p d s = true ↔ s.blk.ready = true ∧ s.txn = none ∧ s.blk.mode = .receive
      ∧ s.blk.reg0.enRxaddr.getLsbD p.val = true ∧ 1 ≤ d.length ∧ d.length ≤ 32
      ∧ s.blk.rxf.length < s.blk.cfg.rxDepth
      ∧ (¬s.blk.dyn p = true → 1 ≤ (s.blk.rxPw p).toNat → (s.blk.rxPw p).toNat ≤ 32
          → d.length = (s.blk.rxPw p).toNat) := by
  simp only [rxDeliverMay, Bool.and_eq_true, decide_eq_true_eq, radioMay_iff, payloadOk_iff,
    lengthAdmitted_iff, and_assoc]

theorem rxDeliver_of_may {p : Pipe} {d : List Byte} {s : State} (h : rxDeliverMay p d s = true) :
    rxDeliver p d s = { s with blk := { s.blk with
      rxf := s.blk.rxf ++ [{ pipe := p, data := d }]
      irq := setFlag s.blk.irq s.blk.cfg.irqBits.rxDr } } := if_pos h

/-- Settles O57: the guard is that of the model, and the flag is set bit by bit. -/
theorem rxDeliverPushesAdmittedPayloads : Obligations.RxDeliverPushesAdmittedPayloads := by
  intro s p d rest w ha hw
  obtain rfl : s.blk.rxPw p = w := Option.some.inj ((getElem?_rxPw s.blk p).symm.trans hw)
  have hguard := rxDeliverMay_iff p d { s with agenda := rest }
  simp only [dyn_iff] at hguard
  refine ⟨fun hmay => ⟨_, ?_, getLsbD_setFlag _ _⟩, fun hnot => ?_⟩
  · rw [step_of_agenda ha, handle, rxDeliver_of_may (hguard.mpr hmay)]
  · rw [step_of_agenda ha, handle, rxDeliver_of_not (mt hguard.mp hnot)]

end Sys2Proof.Machine

namespace Sys2Proof.Machine

/-! The mode changes (rules R163 to R166) -/

/-- In bank 0, W_REGISTER at CONFIG's address is the write of CONFIG (rule R212). -/
theorem writeRegister_config {b : Block} {a : BitVec 5} (hb : b.bank = .bank0)
    (ha : reg0At b.cfg.layout a = some .config) (data : List Byte) :
    writeRegister b a data = writeConfig b data := by
  rw [writeRegister, if_neg (by rw [hb]; decide), ha]

/-- The block after an admitted one-byte CONFIG write (rule R217). -/
def Block.configWritten (b : Block) (v : Byte) : Block :=
  powerOffFifos { b with reg0 := { b.reg0 with config := v } } b.reg0.config v

/-- A CONFIG write stores its byte and may draw the FIFOs; it changes nothing else. -/
theorem configWritten_frame (b : Block) (v : Byte) :
    b.configWritten v = { b with
      reg0 := { b.reg0 with config := v }
      txf := (b.configWritten v).txf, rxf := (b.configWritten v).rxf } := by
  unfold Block.configWritten powerOffFifos
  split_ifs
  · rfl
  · rfl

/-- A CONFIG write that takes PWR_UP from 1 to 0 leaves drawn FIFOs (rule R165). -/
theorem configWritten_of_powerOff {b : Block} {v : Byte} (hold : pwrUpOf b.cfg b.reg0.config = true)
    (hnew : pwrUpOf b.cfg v = false) :
    b.configWritten v = { b with
      reg0 := { b.reg0 with config := v }, txf := b.drawnTxf, rxf := b.drawnRxf } :=
  if_pos ⟨hold, hnew⟩

/-- A CONFIG write that leaves PWR_UP at 1 keeps the FIFOs (rule R166). -/
theorem configWritten_of_pwrUp {b : Block} {v : Byte} (hnew : pwrUpOf b.cfg v = true) :
    b.configWritten v = { b with reg0 := { b.reg0 with config := v } } :=
  if_neg fun ⟨_, hoff⟩ => Bool.false_ne_true (hoff.symm.trans hnew)

/-- Settles O41: the drawn FIFOs are made well-formed. -/
theorem powerOffFifosAreWellFormed : Obligations.PowerOffFifosAreWellFormed := by
  intro s a v hb ha hce hold hnew
  have hw : writeRegister s.blk a [v] = .ok (s.blk.configWritten v) :=
    (writeRegister_config hb ha [v]).trans (writeConfig_ceLow hce v)
  rw [configWritten_of_powerOff hold hnew] at hw
  refine ⟨_, by rw [exec_wRegister, hw, conclude_ok], ?_, txFifoOfDraw_ok _ _, rxFifoOfDraw_ok _ _⟩
  rw [mode_eq_powerOff_iff]
  exact hnew

/-- A one-byte CONFIG write is refused with CE high where it would change the mode (rule R217). -/
theorem writeConfig_singleton_ok {b b' : Block} {v : Byte} (h : writeConfig b [v] = .ok b') :
    b' = b.configWritten v ∧ (b.ce = true →
      pwrUpOf b.cfg v = pwrUpOf b.cfg b.reg0.config ∧ primRxOf b.cfg v = primRxOf b.cfg b.reg0.config) := by
  simp only [writeConfig] at h
  split_ifs at h with hchange
  refine ⟨(Except.ok.inj h).symm, fun hce => ?_⟩
  rwa [and_iff_right hce, not_or, not_not, not_not] at hchange

/-- A one-byte CONFIG write that changes the mode was made with CE low. -/
theorem writeConfig_singleton_mode_ne {b b' : Block} {v : Byte} (h : writeConfig b [v] = .ok b')
    (hm : b'.mode ≠ b.mode) : b' = b.configWritten v ∧ b.ce = false := by
  obtain ⟨rfl, hsame⟩ := writeConfig_singleton_ok h
  refine ⟨rfl, ?_⟩
  by_contra hce
  obtain ⟨hup, hrx⟩ := hsame (by simpa using hce)
  rw [configWritten_frame] at hm
  exact hm (mode_congr hup hrx rfl)

/-- An update changes CONFIG only where it is a one-byte write of CONFIG in bank 0. -/
theorem update_config {i : Instr} {b b' : Block} (h : update i b = .ok b')
    (hne : b'.reg0.config ≠ b.reg0.config) :
    ∃ a v, i = .wRegister a [v] ∧ b.bank = .bank0 ∧ reg0At b.cfg.layout a = some .config := by
  obtain ⟨hreg0, -⟩ | ⟨a, data, rfl, -⟩ := update_registers h
  · exact absurd (congrArg Bank0.config hreg0) hne
  · obtain ⟨-, r1, rfl⟩ | ⟨hb, r0, irq, txf, rxf, rfl, -, -, -, hconfig⟩ := writeRegister_ok h
    · exact absurd rfl hne
    · obtain ⟨ha, rfl⟩ := hconfig.resolve_left hne
      exact ⟨a, _, rfl, hb, ha⟩

/-- Where a one-byte write at address `a` can change the mode (rule R163): the address is CONFIG's in the
selected bank, and CE is low. -/
structure Block.TakesConfigAt (b : Block) (a : BitVec 5) : Prop where
  bank : b.bank = .bank0
  addr : reg0At b.cfg.layout a = some .config
  ce : b.ce = false

/-- Of the updates, only a one-byte write of CONFIG with CE low changes the mode (rule R163). -/
theorem update_mode {i : Instr} {b b' : Block} (h : update i b = .ok b') (hm : b'.mode ≠ b.mode) :
    ∃ a v, i = .wRegister a [v] ∧ b.TakesConfigAt a ∧ b' = b.configWritten v := by
  have hk := update_keeps h
  have hconfig : b'.reg0.config ≠ b.reg0.config := fun hconfig =>
    hm (mode_eq_of_config_eq hk.cfg hconfig hk.ce)
  obtain ⟨a, v, rfl, hb, ha⟩ := update_config h hconfig
  have hw : writeConfig b [v] = .ok b' := (writeRegister_config hb ha [v]).symm.trans h
  obtain ⟨hb', hce⟩ := writeConfig_singleton_mode_ne hw hm
  exact ⟨a, v, rfl, ⟨hb, ha, hce⟩, hb'⟩

/-- The end of a transaction changes the mode only by a one-byte write of CONFIG with CE low (rule R163). -/
theorem ended_mode {t : Txn} {b b' : Block} (h : b.Ended t b') (hm : b'.mode ≠ b.mode) :
    ∃ a v, t.bit = 0 ∧ t.bytes = [0b001#3 ++ a, v] ∧ b.TakesConfigAt a ∧ b' = b.configWritten v := by
  obtain ⟨code, bytes, rfl⟩ | rfl | ⟨c, data, i, hbit, hbytes, hdec, hu⟩ := h
  · exact absurd rfl hm
  · exact absurd rfl hm
  · obtain ⟨a, v, rfl, hw, hb'⟩ := update_mode hu hm
    obtain ⟨rfl, rfl⟩ := bytes_of_decodeFrame_wRegister hdec
    exact ⟨a, v, hbit, hbytes, hw, hb'⟩

theorem setSck_blk (v : Bool) (s : State) : (setSck v s).blk = s.blk := by
  unfold setSck sckRise sckFall
  split_ifs
  · rfl
  · split
    · rfl
    · split_ifs
      · rfl
      · rfl
  · split
    · rfl
    · rfl

theorem csnFall_ce (s : State) : (csnFall s).blk.ce = s.blk.ce := by
  unfold csnFall
  split
  · rfl
  · rfl

theorem bootDone_ce (s : State) : (bootDone s).blk.ce = s.blk.ce := by
  unfold bootDone
  split_ifs
  · rfl
  · rfl

theorem State.SameButFlagsAndFifos.ce {s u : State} (h : s.SameButFlagsAndFifos u) :
    u.blk.ce = s.blk.ce :=
  congrArg (fun s => s.blk.ce) h

/-- Of the inputs that close no frame, only a CE pin action moves CE (rule R160). -/
theorem passive_ce {e : Event} (he : ∀ v, e ≠ .ce v) (s : State) : (passive e s).blk.ce = s.blk.ce := by
  cases e with
  | ce v => exact absurd rfl (he v)
  | csn v =>
    simp only [passive]
    split_ifs
    · rfl
    · rfl
    · exact csnFall_ce s
  | sck v => exact congrArg Block.ce (setSck_blk v s)
  | mosi v | wait us | powerOn => rfl
  | rxDeliver p d => exact (rxDeliver_frame p d s).ce
  | txSent => exact (txSent_frame s).ce
  | txMaxRt => exact (txMaxRt_frame s).ce
  | bootDone => exact bootDone_ce s

/-- An input that closes no frame changes the mode only where it is a CE pin action or power-on. -/
theorem passive_mode {e : Event} {s : State} (he : ∀ v, e ≠ .ce v) (hp : e ≠ .powerOn) :
    (passive e s).blk.mode = s.blk.mode := by
  obtain ⟨hcfg, hkeep, -⟩ := passive_keeps e s
  obtain ⟨-, -, hreg0, -⟩ := hkeep hp
  exact mode_eq_of_config_eq hcfg (congrArg Bank0.config hreg0) (passive_ce he s)

/-- What a step that changes the mode is, other than power-on: a CE pin action, or the end of a one-byte
write of CONFIG with CE low (rule R163). -/
theorem step_mode_cases {s u : State} (h : step s = .next u) (hp : s.agenda.head? ≠ some .powerOn)
    (hm : u.blk.mode ≠ s.blk.mode) :
    (∃ v, s.agenda.head? = some (.ce v) ∧ u.blk = { s.blk with ce := v })
      ∨ ∃ t rest a v, EndsFrame s t rest ∧ t.bit = 0 ∧ t.bytes = [0b001#3 ++ a, v]
        ∧ s.blk.TakesConfigAt a ∧ u.blk = (s.risen rest).blk.configWritten v := by
  obtain ⟨-, rfl⟩ | ⟨e, rest, ha, rfl, -⟩ | ⟨t, rest, v, hf, hE, rfl⟩ := step_cases h
  · exact absurd rfl hm
  · have hhead : s.agenda.head? = some e := by rw [ha]; rfl
    have hpower : e ≠ .powerOn := fun he => hp (he ▸ hhead)
    by_cases he : ∃ v, e = .ce v
    · obtain ⟨v, rfl⟩ := he
      exact .inl ⟨v, hhead, rfl⟩
    · exact absurd (passive_mode (not_exists.mp he) hpower) hm
  · obtain ⟨a, v, hbit, hbytes, ⟨hb, ha, hce⟩, hu⟩ := ended_mode (ended_of_ends hE) hm
    exact .inr ⟨t, rest, a, v, hf, hbit, hbytes, ⟨hb, ha, hce⟩, hu⟩

/-- Settles O27: a step that changes the mode is power-on or one of the two of step_mode_cases. -/
theorem modeChangesOnlyByCeOrConfig : Obligations.ModeChangesOnlyByCeOrConfig := by
  intro s u h hm
  by_cases hp : s.agenda.head? = some .powerOn
  · exact .inr (.inl hp)
  · obtain ⟨v, hv, -⟩ | ⟨t, rest, a, v, ⟨ha, -, ht⟩, hbit, hbytes, ⟨hb, haddr, hce⟩, -⟩ :=
      step_mode_cases h hp hm
    · exact .inl ⟨v, hv⟩
    · exact .inr (.inr ⟨by rw [ha]; rfl, hce, hb, t, a, v, ht, hbit, hbytes, haddr⟩)

/-- Settles O28: the CE pin action writes CE alone, and the write of CONFIG that alone, but for the FIFOs
drawn where PWR_UP becomes 0. -/
theorem modeChangeKeepsTheRest : Obligations.ModeChangeKeepsTheRest := by
  intro s u h hp hm
  obtain ⟨v, -, hu⟩ | ⟨t, rest, a, v, -, -, -, -, hu⟩ := step_mode_cases h hp hm
  · rw [hu]
    exact ⟨rfl, fun _ => ⟨rfl, rfl⟩⟩
  · have hframe := hu.trans (configWritten_frame _ v)
    refine ⟨by rw [hframe]; rfl, fun hon => ?_⟩
    have hup : pwrUpOf (s.risen rest).blk.cfg v = true := by
      rw [hframe, Ne, mode_eq_powerOff_iff, Bool.not_eq_false] at hon
      exact hon
    rw [hu, configWritten_of_pwrUp hup]
    exact ⟨rfl, rfl⟩

end Sys2Proof.Machine

namespace Sys2Proof.Machine

/-! The bank toggle (rules R191 and R192) -/

/-- The two places of STATUS's lower fields that an admissible layout may choose (rule R9). -/
theorem statusPlaces_of_layoutOk {l : Layout} (h : layoutOk l = true) :
    (l.posRxPNo.val = 0 ∧ l.posTxFull.val = 3) ∨ (l.posRxPNo.val = 1 ∧ l.posTxFull.val = 0) := by
  simp only [layoutOk, Bool.and_eq_true, Bool.or_eq_true, beq_iff_eq, Fin.ext_iff] at h
  obtain ⟨⟨⟨⟨-, hplaces⟩, -⟩, -⟩, -⟩ := h
  exact hplaces

theorem other_eq_bank1_iff (k : Bank) : Bank.other k = .bank1 ↔ k ≠ .bank1 := by
  cases k <;> decide

/-- The toggle flips bit 7 of STATUS; the bits below it show fields that the toggle keeps, so none of them is
drawn (rules R25 and R40). -/
theorem getLsbD_status_toggleBank {b : Block} (hl : layoutOk b.cfg.layout = true) (d d' : Byte) {k : Nat}
    (hk : k < 8) :
    ((toggleBank b).status d').getLsbD k = ((b.status d).getLsbD k ^^ decide (k = 7)) := by
  have hplaces := statusPlaces_of_layoutOk hl
  rw [statusByteShowsItsFields b d k hk (by omega) (by omega) (by omega),
    statusByteShowsItsFields (toggleBank b) d' k hk (by rw [toggleBank_cfg]; omega)
      (by rw [toggleBank_cfg]; omega) (by rw [toggleBank_cfg]; omega)]
  by_cases h7 : k = 7
  · simp [h7, other_eq_bank1_iff]
  · rw [if_neg h7, if_neg h7, decide_eq_false h7, Bool.xor_false]
    refine ite_congr rfl (fun _ => rfl) fun hirq => ?_
    refine ite_congr rfl (fun _ => rfl) fun hpipe => ?_
    refine ite_congr rfl (fun _ => rfl) fun hfull => ?_
    omega

/-- Settles O34: bit by bit, the toggle flips bit 7 and keeps the others. -/
theorem toggleFlipsStatusBit7Alone : Obligations.ToggleFlipsStatusBit7Alone := by
  intro b d d' hl
  refine BitVec.eq_of_getLsbD_eq fun k hk => ?_
  have hbit7 : ∀ j < 8, (0x80#8).getLsbD j = decide (j = 7) := by decide
  rw [BitVec.getLsbD_xor, getLsbD_status_toggleBank hl d d' hk, ← Bool.xor_assoc, Bool.xor_self,
    Bool.false_xor, hbit7 k hk]

theorem toggleBank_toggleBank (b : Block) : toggleBank (toggleBank b) = b := by
  obtain ⟨cfg, ready, bank⟩ := b
  cases bank <;> rfl

theorem exec_activateBank (s : State) :
    exec .activateBank s = .next { s.answer [0x50#8, 0x53#8] with blk := toggleBank s.blk } := rfl

/-- Settles O45: the command is the toggle, which is its own inverse. -/
theorem activateBankTogglesTheBank : Obligations.ActivateBankTogglesTheBank := by
  refine ⟨rfl, fun s => ⟨?_, fun hb => ?_, fun hb => ?_⟩, fun s u v hu hv => ?_⟩
  · exact shiftsOutDraws_encode (i := .activateBank) rfl nofun nofun nofun s
  · rw [exec_activateBank, toggleBank, hb, Bank.other]
  · rw [exec_activateBank, toggleBank, hb, Bank.other]
  · rw [exec_activateBank, Host.Outcome.next.injEq] at hu hv
    rw [← hv, ← hu]
    exact toggleBank_toggleBank s.blk

/-! The feature unlock (rule R193) -/

theorem unlockFeature_of_locked {b : Block} (h : b.featureLocked = true) :
    unlockFeature b = .ok { b with featureLocked := false } := by
  rw [unlockFeature, if_pos h]

theorem unlockFeature_of_unlocked {b : Block} (h : b.featureLocked = false) :
    unlockFeature b = .error .rf07AlreadyUnlocked := by
  simp [unlockFeature, h]

/-- Settles O46: the update in each state of the lock, concluded. -/
theorem activateFeatureUnlocks : Obligations.ActivateFeatureUnlocks := by
  refine ⟨rfl, fun s => ⟨?_, fun hl => ?_, fun hl => ?_⟩⟩
  · exact shiftsOutDraws_encode (i := .activateFeature) rfl nofun nofun nofun s
  · rw [exec_eq_conclude, update, unlockFeature_of_locked hl, conclude_ok]
    rfl
  · rw [exec_eq_conclude, update, unlockFeature_of_unlocked hl, conclude_error]
    rfl

/-! The count of ACTIVATE's argument bytes (rules R190 and R276) -/

/-- The count is checked before the argument: any other than one is rejected with RF06. -/
theorem decodeActivate_of_length_ne_one {data : List Byte} (h : data.length ≠ 1) :
    decodeActivate data = .error .rf06ActivateCount := by
  match data with
  | [] => rfl
  | [_] => exact absurd rfl h
  | _ :: _ :: _ => rfl

/-- Settles O7: the decoder rejects the count, and the step takes the refusal. -/
theorem activateCountIsChecked : Obligations.ActivateCountIsChecked := by
  intro s t rest data hends hbit hbytes hready hlen
  have hbyte : decodeByte 0x50#8 = .activate := by decide
  have hdec : decodeFrame 0x50#8 data = .error .rf06ActivateCount := by
    rw [decodeFrame, hbyte]
    exact decodeActivate_of_length_ne_one hlen
  rw [hbytes]
  exact step_of_rejected hends hbit hbytes hready hdec

end Sys2Proof.Machine

namespace Sys2Proof.Machine

/-! What a register write answers (rules R212 and R270) -/

theorem exec_wRegister_of_ok {s : State} {a : BitVec 5} {data : List Byte} {b : Block}
    (h : writeRegister s.blk a data = .ok b) :
    exec (.wRegister a data) s = .next { s.answer (encode (.wRegister a data)) with blk := b } := by
  rw [exec_wRegister, h, conclude_ok]

theorem exec_wRegister_of_error {s : State} {a : BitVec 5} {data : List Byte} {code : RefusalCode}
    (h : writeRegister s.blk a data = .error code) :
    exec (.wRegister a data) s = .next (s.refuse code (encode (.wRegister a data))) := by
  rw [exec_wRegister, h, conclude_error]

/-- A register's write `w` to the block `b` takes up to `n` data bytes: with none it has no effect, and with
more than `n` it is refused with RF04 (the spec's decision D7). -/
structure TakesUpTo (n : Nat) (b : Block) (w : List Byte → Except RefusalCode Block) : Prop where
  noByte : w [] = .ok b
  tooMany : ∀ data, n < data.length → w data = .error .rf04TooManyBytes

theorem takesUpTo_memWrite0 (b : Block) (r : Reg0) : TakesUpTo (width0 r) b (memWrite0 b r) :=
  ⟨rfl, fun data hlen => by rw [memWrite0, if_neg (by omega), if_pos hlen]⟩

theorem takesUpTo_memWrite1 (b : Block) (r : Reg1) : TakesUpTo (width1 r) b (memWrite1 b r) :=
  ⟨rfl, fun data hlen => by rw [memWrite1, if_neg (by omega), if_pos hlen]⟩

theorem takesUpTo_writeStatus (b : Block) : TakesUpTo 1 b (writeStatus b) :=
  ⟨rfl, fun | _ :: _ :: _, _ => rfl⟩

theorem takesUpTo_writeConfig (b : Block) : TakesUpTo 1 b (writeConfig b) :=
  ⟨rfl, fun | _ :: _ :: _, _ => rfl⟩

theorem takesUpTo_writeAux (b : Block) : TakesUpTo 1 b (writeAux b) :=
  ⟨rfl, fun | _ :: _ :: _, _ => rfl⟩

theorem takesUpTo_writeFeature (b : Block) : TakesUpTo 1 b (writeFeature b) :=
  ⟨rfl, fun | _ :: _ :: _, _ => rfl⟩

/-- The two ends of the length of a register write, as transactions: no data byte, and too many. -/
theorem exec_wRegister_of_takesUpTo {n : Nat} {s : State} {a : BitVec 5}
    {w : List Byte → Except RefusalCode Block} (hw : ∀ data, writeRegister s.blk a data = w data)
    (h : TakesUpTo n s.blk w) (data : List Byte) :
    (data = [] → exec (.wRegister a data) s = .next (s.answer (encode (.wRegister a data))))
      ∧ (n < data.length → exec (.wRegister a data) s
        = .next (s.refuse .rf04TooManyBytes (encode (.wRegister a data)))) := by
  refine ⟨?_, fun hlen => exec_wRegister_of_error ((hw data).trans (h.tooMany data hlen))⟩
  rintro rfl
  exact exec_wRegister_of_ok ((hw []).trans h.noByte)

/-! The bytes of a register after a write (rule R213) -/

/-- The bytes that write number `n` of `data` leaves in a register of width `w`. -/
def writtenBytes (w n : Nat) (data : List Byte) : List Byte := (List.range w).map (writtenByte n data)

section
variable {w n j : Nat} {data : List Byte}

theorem length_writtenBytes : (writtenBytes w n data).length = w := by simp [writtenBytes]

theorem getElem?_writtenBytes_of_data {v : Byte} (hlen : data.length ≤ w) (hv : data[j]? = some v) :
    (writtenBytes w n data)[j]? = some v := by
  obtain ⟨hj, -⟩ := List.getElem?_eq_some_iff.mp hv
  have hjw : j < w := by omega
  simp [writtenBytes, writtenByte, hjw, hv]

theorem getElem?_writtenBytes_of_draw (hlen : data.length ≤ j) (hj : j < w) :
    (writtenBytes w n data)[j]? = some (Config.freeRegByte n j) := by
  simp [writtenBytes, writtenByte, hj, List.getElem?_eq_none hlen]

end

theorem memWrite0_of_fits {b : Block} {r : Reg0} {data : List Byte}
    (h : 1 ≤ data.length ∧ data.length ≤ width0 r) :
    memWrite0 b r data = .ok { b with reg0 := b.reg0.setBytes r (writtenByte b.draws data) } := by
  rw [memWrite0, if_neg (by omega), if_neg (by omega)]

theorem memWrite1_of_fits {b : Block} {r : Reg1} {data : List Byte}
    (h : 1 ≤ data.length ∧ data.length ≤ width1 r) :
    memWrite1 b r data = .ok { b with reg1 := b.reg1.setBytes r (writtenByte b.draws data) } := by
  rw [memWrite1, if_neg (by omega), if_neg (by omega)]

/-! Bank-0 storage (rules R212, R213, R218 and R223) -/

/-- A plain register has storage, and W_REGISTER writes it by MemWrite (rules R218 and R223). -/
theorem writeRegister_plain {b : Block} {a : BitVec 5} {r : Reg0} (hb : b.bank = .bank0)
    (ha : reg0At b.cfg.layout a = some r) (hr : r ∈ plainReg0) (data : List Byte) :
    writeRegister b a data = memWrite0 b r data := by
  rw [writeRegister, if_neg (by rw [hb]; decide), ha]
  cases r with
  | status | config | auxStatus | feature | dynpd => exact absurd hr (by decide)
  | _ => rfl

/-- Settles O36: the write is MemWrite, which fills the register with the data and then with draws. -/
theorem plainRegisterWriteStoresTheData : Obligations.PlainRegisterWriteStoresTheData := by
  intro s a r data hb ha hr
  have hw := writeRegister_plain hb ha hr
  obtain ⟨hnone, hmany⟩ := exec_wRegister_of_takesUpTo hw (takesUpTo_memWrite0 s.blk r) data
  refine ⟨hnone, hmany, fun hfits => ?_⟩
  have hstatus : r ≠ .status := by
    rintro rfl
    exact absurd hr (by decide)
  have hbytes : (s.blk.reg0.setBytes r (writtenByte s.blk.draws data)).bytes r
      = writtenBytes (width0 r) s.blk.draws data := bank0_bytes_setBytes_same _ _ _ hstatus
  refine ⟨_, exec_wRegister_of_ok ((hw data).trans (memWrite0_of_fits hfits)), ?_⟩
  rw [hbytes]
  exact ⟨length_writtenBytes, fun _ _ => getElem?_writtenBytes_of_data hfits.2,
    fun _ => getElem?_writtenBytes_of_draw, fun _ => bank0_bytes_setBytes_other _ _⟩

/-! Bank-1 storage (rules R54 and R214) -/

/-- The address of a bank-1 register (rule R54). -/
def addr1 : Reg1 → BitVec 5
  | .r00 => 0x00#5
  | .r01 => 0x01#5
  | .r02 => 0x02#5
  | .r03 => 0x03#5
  | .r04 => 0x04#5
  | .r05 => 0x05#5
  | .r06 => 0x06#5
  | .r07 => 0x07#5
  | .r08 => 0x08#5
  | .r09 => 0x09#5
  | .r0A => 0x0A#5
  | .r0B => 0x0B#5
  | .r0C => 0x0C#5
  | .r0D => 0x0D#5
  | .r0E => 0x0E#5

theorem addr1_of_mem_reg1At : ∀ a : BitVec 5, ∀ r ∈ reg1At a, addr1 r = a := by decide

theorem reg1At_eq_none_iff : ∀ a : BitVec 5, reg1At a = none ↔ 0x0E < a.toNat := by decide

/-- Register 0x0E has 11 bytes, and every other one 4. -/
theorem width1_eq_ite (r : Reg1) : width1 r = if addr1 r = 0x0E#5 then 11 else 4 := by
  cases r <;> rfl

theorem writeRegister_bank1 {b : Block} {a : BitVec 5} {r : Reg1} (hb : b.bank = .bank1)
    (hr : reg1At a = some r) (data : List Byte) : writeRegister b a data = memWrite1 b r data := by
  rw [writeRegister, if_pos hb, writeBank1, hr]

/-- A write to an address that the selected bank does not map is refused with RF03 (rules R214 and R219). -/
theorem writeRegister_unmapped {b : Block} {a : BitVec 5}
    (h : (b.bank = .bank0 ∧ reg0At b.cfg.layout a = none) ∨ (b.bank = .bank1 ∧ reg1At a = none))
    (data : List Byte) : writeRegister b a data = .error .rf03UnmappedWrite := by
  obtain ⟨hb, ha⟩ | ⟨hb, ha⟩ := h
  · rw [writeRegister, if_neg (by rw [hb]; decide), ha]
  · rw [writeRegister, if_pos hb, writeBank1, ha]

/-- Settles O37: an address up to 0x0E has a register of its own, which MemWrite fills with the data and then
with draws. -/
theorem bank1WriteReachesBank1Storage : Obligations.Bank1WriteReachesBank1Storage := by
  intro s a data hb
  refine ⟨fun ha => ?_, fun ha => ?_⟩
  · have hnone := (reg1At_eq_none_iff a).mpr ha
    exact exec_wRegister_of_error (writeRegister_unmapped (.inr ⟨hb, hnone⟩) data)
  · obtain ⟨r, hr⟩ := Option.ne_none_iff_exists'.mp (mt (reg1At_eq_none_iff a).mp (by omega))
    have haddr := addr1_of_mem_reg1At a r hr
    have hw := writeRegister_bank1 hb hr
    obtain ⟨hnone, hmany⟩ := exec_wRegister_of_takesUpTo hw (takesUpTo_memWrite1 s.blk r) data
    refine ⟨r, hr, fun a' hr' => (addr1_of_mem_reg1At a' r hr').symm.trans haddr,
      haddr ▸ width1_eq_ite r, hnone, hmany, fun hfits => ?_⟩
    have hbytes : (s.blk.reg1.setBytes r (writtenByte s.blk.draws data)).bytes r
        = writtenBytes (width1 r) s.blk.draws data := bank1_bytes_setBytes_same _ _ _
    refine ⟨_, exec_wRegister_of_ok ((hw data).trans (memWrite1_of_fits hfits)), ?_⟩
    rw [hbytes]
    exact ⟨length_writtenBytes, fun _ _ => getElem?_writtenBytes_of_data hfits.2,
      fun _ => getElem?_writtenBytes_of_draw, fun _ => bank1_bytes_setBytes_other _ _⟩

end Sys2Proof.Machine

namespace Sys2Proof.Machine

/-! The CONFIG write (rules R165 and R217) -/

/-- A one-byte CONFIG write is refused where CE is high and it changes PWR_UP or PRIM_RX (rule R217). -/
theorem writeConfig_singleton (b : Block) (v : Byte) :
    writeConfig b [v] =
      if b.ce = true ∧ (pwrUpOf b.cfg v ≠ pwrUpOf b.cfg b.reg0.config
          ∨ primRxOf b.cfg v ≠ primRxOf b.cfg b.reg0.config) then
        .error .rf12ModeChangeCeHigh
      else .ok (b.configWritten v) := rfl

/-- A CONFIG write that does not take PWR_UP from 1 to 0 keeps the FIFOs (rule R217). -/
theorem configWritten_of_not_fall {b : Block} {v : Byte}
    (h : ¬(pwrUpOf b.cfg b.reg0.config = true ∧ pwrUpOf b.cfg v = false)) :
    b.configWritten v = { b with reg0 := { b.reg0 with config := v } } := if_neg h

/-- Settles O40: a byte is refused or admitted as its two mode bits and CE say, and the admitted one draws the
FIFOs where PWR_UP falls. -/
theorem configWriteChangesTheMode : Obligations.ConfigWriteChangesTheMode := by
  intro s a data hb ha
  have hw := writeRegister_config hb ha
  obtain ⟨hnone, hmany⟩ := exec_wRegister_of_takesUpTo hw (takesUpTo_writeConfig s.blk) data
  refine ⟨hnone, hmany, ?_⟩
  rintro v rfl
  have hv := (hw [v]).trans (writeConfig_singleton s.blk v)
  refine ⟨fun hrefused => ?_, fun hadmitted hkept => ?_, fun hadmitted hfall => ?_⟩
  · exact exec_wRegister_of_error (hv.trans (if_pos hrefused))
  · rw [exec_wRegister_of_ok (hv.trans (if_neg hadmitted)), configWritten_of_not_fall hkept]
  · rw [exec_wRegister_of_ok (hv.trans (if_neg hadmitted)), configWritten_of_powerOff hfall.1 hfall.2]

end Sys2Proof.Machine

namespace Sys2Proof.Machine

/-! The bytes that a register read returns (rules R135, R210, R211 and R215) -/

theorem exec_rRegister (a : BitVec 5) (data : List Byte) (s : State) :
    exec (.rRegister a data) s
      = .next { s with response := outBytes s.seen (encode (.rRegister a data)) } := rfl

/-- The bytes out of a register read: a draw, and then MemReadByte at each data byte (rules R135 and R210). -/
theorem outBytes_rRegister {snap : Block} (hready : snap.ready = true) (a : BitVec 5) (data : List Byte) :
    outBytes snap (encode (.rRegister a data))
      = Config.freeMisoByte snap.draws 0 :: (List.range data.length).map
          (fun j => readByte snap a j (Config.freeMisoByte snap.draws (j + 1))) := by
  have hcommand : decodeByte (0b000#3 ++ a) = .rRegister a :=
    decodeByte_commandByte (i := .rRegister a data) rfl
  have hout (k : Nat) : outByte snap (encode (.rRegister a data)) k =
      if k = 0 then snap.misoDraw k else outCommand snap (.rRegister a) k := by
    rw [← hcommand]
    exact outByte_cons_of_ready hready _ _ _
  rw [outBytes, encode, List.length_cons, List.range_succ_eq_map, List.map_cons, List.map_map]
  exact congrArg₂ List.cons (hout 0) (List.map_congr_left fun j _ => hout (j + 1))

theorem readByte_status (b : Block) (j : Nat) (d : Byte) :
    readByte b 0x07#5 j d = if j = 0 then b.status d else d := if_pos rfl

/-- Bank-1 registers are write-only (rule R54). -/
theorem readByte_bank1 {b : Block} {a : BitVec 5} (hb : b.bank = .bank1) (ha : a ≠ 0x07#5) (j : Nat)
    (d : Byte) : readByte b a j d = d := by
  rw [readByte, if_neg ha, if_pos hb]

theorem readByte_lockedFeature {b : Block} (hb : b.bank = .bank0) (hl : b.featureLocked = true) (j : Nat)
    (d : Byte) : readByte b 0x1D#5 j d = if j = 0 then 0x00#8 else d := by
  simp [readByte, hb, hl]

/-- What MemReadByte reads as a draw in bank 0, whatever the byte: an unmapped address, AUX_STATUS, U08 and
U09, and DYNPD while the lock is closed (rules R52, R53, R219 and R222). -/
def Block.DrawsAt (b : Block) (a : BitVec 5) : Prop :=
  reg0At b.cfg.layout a = none
    ∨ (∃ r ∈ [Reg0.auxStatus, .u08, .u09], reg0At b.cfg.layout a = some r)
    ∨ (reg0At b.cfg.layout a = some .dynpd ∧ b.featureLocked = true)

theorem readByte_of_drawsAt {b : Block} {a : BitVec 5} (hb : b.bank = .bank0) (h : b.DrawsAt a) (j : Nat)
    (d : Byte) : readByte b a j d = d := by
  have ha7 : a ≠ 0x07#5 := by
    rintro rfl
    simp [Block.DrawsAt] at h
  rw [readByte, if_neg ha7, if_neg (by rw [hb]; decide)]
  obtain ha | ⟨r, hr, ha⟩ | ⟨ha, hl⟩ := h
  · rw [ha]
  · rw [ha]
    cases r with
    | auxStatus | u08 | u09 => rfl
    | _ => exact absurd hr (by decide)
  · rw [ha]
    exact if_pos hl

/-- The mask applies to single-byte registers only (rule R211). -/
theorem readMaskOf_eq_ite (p : Params) (r : Reg0) :
    readMaskOf p r = if width0 r = 1 then (p.readMask.lookup r).getD 0x00#8 else 0x00#8 := by
  cases r <;> rfl

section
variable {b : Block} {r : Reg0} {j : Nat}

/-- Inside the register's width the stored byte is read, with draws in the bits of the mask (rule R211). -/
theorem storedRead_of_lt_width (hr : r ≠ .status) (hj : j < width0 r) (d : Byte) :
    ∃ v, (b.reg0.bytes r)[j]? = some v
      ∧ storedRead b r j d = (v &&& ~~~(readMaskOf b.cfg r)) ||| (d &&& readMaskOf b.cfg r) := by
  rw [← bank0_bytes_length b.reg0 r hr] at hj
  have hv := List.getElem?_eq_getElem hj
  exact ⟨_, hv, by rw [storedRead, hv]⟩

/-- Bytes past the register's width are draws (rules R210 and R211). -/
theorem storedRead_of_width_le (hr : r ≠ .status) (hj : width0 r ≤ j) (d : Byte) :
    storedRead b r j d = d := by
  rw [← bank0_bytes_length b.reg0 r hr] at hj
  rw [storedRead, List.getElem?_eq_none hj]

end

/-- Settles O31: the bytes out are MemReadByte's, and MemReadByte branch by branch. -/
theorem rRegisterReturnsTheRegister : Obligations.RRegisterReturnsTheRegister := by
  refine ⟨fun a data s =>
      ⟨rfl, exec_rRegister a data s, fun hready => outBytes_rRegister hready a data⟩,
    fun b a j d => ⟨?_, fun ha hb => readByte_bank1 hb ha j d,
      fun hb ha => readByte_of_drawsAt hb (.inl ha) j d, ?_,
      fun hb ha hl => readByte_of_drawsAt hb (.inr (.inr ⟨ha, hl⟩)) j d,
      fun r hb ha hr => readByte_of_drawsAt hb (.inr (.inl ⟨r, hr, ha⟩)) j d, ?_⟩⟩
  · rintro rfl
    exact readByte_status b j d
  · rintro hb rfl hl
    exact readByte_lockedFeature hb hl j d
  · intro r hb ha hr hlock
    have hopen : r = .feature ∨ r = .dynpd → b.featureLocked = false := fun hgated => by
      by_contra hl
      exact hlock (by simpa using hl) (by simpa using hgated)
    have hstatus : r ≠ .status := fun h => hr (by simp [h])
    rw [readByte_stored hb ha hr hopen, ← readMaskOf_eq_ite]
    refine ⟨fun hj => ?_, fun hj => storedRead_of_width_le hstatus hj d⟩
    obtain ⟨v, hv, hread⟩ := storedRead_of_lt_width hstatus hj d
    exact ⟨v, _, hv, rfl, hread⟩

/-- Settles O33: a read of one data byte at 0x07, which MemReadByte looks at before the bank. -/
theorem statusIsReadableInBothBanks : Obligations.StatusIsReadableInBothBanks := by
  intro s x hready
  rw [exec_rRegister, outBytes_rRegister hready]
  rfl

/-- Settles O38: the write finds no register, and the read is a draw. -/
theorem unmappedAddressesAreDrawnAndRefused : Obligations.UnmappedAddressesAreDrawnAndRefused := by
  refine ⟨fun s a data h => ?_, fun b a j d h => ?_⟩
  · have hnone : 0x0F ≤ a.toNat → reg1At a = none := (reg1At_eq_none_iff a).mpr
    exact exec_wRegister_of_error (writeRegister_unmapped (h.imp_right (And.imp_right hnone)) data)
  · obtain ⟨hb, ha⟩ | ⟨hb, ha⟩ := h
    · exact readByte_of_drawsAt hb (.inl ha) j d
    · exact readByte_bank1 hb ha j d

end Sys2Proof.Machine

namespace Sys2Proof.Machine

/-! The single-byte registers with a meaning of their own (rules R216, R220, R221 and R222) -/

theorem writeRegister_status {b : Block} (hb : b.bank = .bank0) (data : List Byte) :
    writeRegister b 0x07#5 data = writeStatus b data := by
  simp [writeRegister, hb]

theorem writeRegister_auxStatus {b : Block} {a : BitVec 5} (hb : b.bank = .bank0)
    (ha : reg0At b.cfg.layout a = some .auxStatus) (data : List Byte) :
    writeRegister b a data = writeAux b data := by
  rw [writeRegister, if_neg (by rw [hb]; decide), ha]

theorem writeRegister_dynpd {b : Block} {a : BitVec 5} (hb : b.bank = .bank0)
    (ha : reg0At b.cfg.layout a = some .dynpd) (data : List Byte) :
    writeRegister b a data = writeDynpd b data := by
  rw [writeRegister, if_neg (by rw [hb]; decide), ha]

/-- Settles O39: the byte's bits 6:4 clear the flags. -/
theorem statusWriteClearsFlags : Obligations.StatusWriteClearsFlags := by
  intro s data hb
  have hw := writeRegister_status hb
  obtain ⟨hnone, hmany⟩ := exec_wRegister_of_takesUpTo hw (takesUpTo_writeStatus s.blk) data
  refine ⟨hnone, hmany, ?_⟩
  rintro v rfl
  exact exec_wRegister_of_ok (hw [v])

/-- Settles O42: the byte is not read, and each FIFO is as its draw says. -/
theorem auxStatusWriteMayEmptyFifos : Obligations.AuxStatusWriteMayEmptyFifos := by
  intro s a data hb ha
  have hw := writeRegister_auxStatus hb ha
  obtain ⟨hnone, hmany⟩ := exec_wRegister_of_takesUpTo hw (takesUpTo_writeAux s.blk) data
  refine ⟨hnone, hmany, fun hlen => ?_⟩
  obtain ⟨v, rfl⟩ := List.length_eq_one_iff.mp hlen
  exact ⟨_, _, exec_wRegister_of_ok (hw [v]), rfl, rfl⟩

/-- Settles O43: the lock decides what a one-byte write stores and what a read returns. -/
theorem featureWriteFollowsTheLock : Obligations.FeatureWriteFollowsTheLock := by
  refine ⟨fun s data hb => ?_, fun b d hb => ⟨fun hl => ?_, fun hopen hmask => ?_⟩⟩
  · have hw := writeRegister_feature hb
    obtain ⟨hnone, hmany⟩ := exec_wRegister_of_takesUpTo hw (takesUpTo_writeFeature s.blk) data
    refine ⟨hnone, hmany, ?_⟩
    rintro v rfl
    refine ⟨fun hl => ?_, fun hopen => ?_⟩
    · exact exec_wRegister_of_ok ((hw [v]).trans (writeFeature_of_locked hl [v]))
    · exact exec_wRegister_of_ok ((hw [v]).trans (writeFeature_unlocked hopen v))
  · exact readByte_lockedFeature hb hl 0 d
  · rw [readByte_stored hb (reg0At_feature _) (by decide) (fun _ => hopen)]
    exact storedRead_of_clear_mask hmask rfl d

/-- Settles O44: the lock is checked before the data; with the lock open the write is MemWrite. -/
theorem dynpdWriteFollowsTheLock : Obligations.DynpdWriteFollowsTheLock := by
  refine ⟨fun s a data hb ha => ?_, fun b a j d hb hl ha => ?_⟩
  · have hdispatch := writeRegister_dynpd hb ha
    refine ⟨fun hl => exec_wRegister_of_error ((hdispatch data).trans (if_pos hl)), fun hopen => ?_⟩
    have hw (data) := (hdispatch data).trans (writeDynpd_unlocked hopen data)
    obtain ⟨hnone, hmany⟩ := exec_wRegister_of_takesUpTo hw (takesUpTo_memWrite0 s.blk .dynpd) data
    refine ⟨hnone, hmany, ?_⟩
    rintro v rfl
    exact exec_wRegister_of_ok (hw [v])
  · exact readByte_of_drawsAt hb (.inr (.inr ⟨ha, hl⟩)) j d

end Sys2Proof.Machine

namespace Sys2Proof.Machine

/-! The checks that come first in a payload or flush command (rules R254 and R255) -/

theorem checkBank_of_bank1 {b : Block} (hb : b.bank = .bank1) (k : Except RefusalCode Block) :
    checkBank b k = .error .rf11WrongBank := if_pos hb

theorem checkBank_of_bank0 {b : Block} (hb : b.bank = .bank0) (k : Except RefusalCode Block) :
    checkBank b k = k := if_neg (by rw [hb]; decide)

theorem checkLock_of_locked {b : Block} (hl : b.featureLocked = true) (k : Except RefusalCode Block) :
    checkLock b k = .error .rf08FeatureLocked := if_pos hl

theorem checkLock_of_unlocked {b : Block} (hl : b.featureLocked = false) (k : Except RefusalCode Block) :
    checkLock b k = k := if_neg (by simp [hl])

/-- A command that checks the bank is refused in bank 1. -/
theorem exec_of_bank1 {i : Instr} {s : State} {k : Except RefusalCode Block}
    (hcheck : update i s.blk = checkBank s.blk k) (hb : s.blk.bank = .bank1) :
    exec i s = .next (s.refuse .rf11WrongBank (encode i)) := by
  rw [exec_eq_conclude, hcheck, checkBank_of_bank1 hb, conclude_error]

/-- In bank 0 a command that checks the bank goes on to what follows the check. -/
theorem exec_of_bank0 {i : Instr} {s : State} {k : Except RefusalCode Block}
    (hcheck : update i s.blk = checkBank s.blk k) (hb : s.blk.bank = .bank0) :
    exec i s = s.conclude i k := by
  rw [exec_eq_conclude, hcheck, checkBank_of_bank0 hb]

/-- In bank 0 a command that checks the bank and then the lock is refused while the lock is closed. -/
theorem exec_of_locked {i : Instr} {s : State} {k : Except RefusalCode Block}
    (hcheck : update i s.blk = checkBank s.blk (checkLock s.blk k)) (hb : s.blk.bank = .bank0)
    (hl : s.blk.featureLocked = true) : exec i s = .next (s.refuse .rf08FeatureLocked (encode i)) := by
  rw [exec_of_bank0 hcheck hb, checkLock_of_locked hl, conclude_error]

/-- In bank 0 with the lock open a command that checks both goes on to what follows the checks. -/
theorem exec_of_unlocked {i : Instr} {s : State} {k : Except RefusalCode Block}
    (hcheck : update i s.blk = checkBank s.blk (checkLock s.blk k)) (hb : s.blk.bank = .bank0)
    (hl : s.blk.featureLocked = false) : exec i s = s.conclude i k := by
  rw [exec_of_bank0 hcheck hb, checkLock_of_unlocked hl]

/-! The pipe operand of W_TX_PAYLOAD_ACK (rules R103, R107 and R242) -/

theorem pipeOperand_ofNat : ∀ p : Pipe, pipeOperand (BitVec.ofNat 3 p.val) = some p := by decide

theorem wf_wTxPayloadAck (p : Pipe) (data : List Byte) :
    (Instr.wTxPayloadAck (BitVec.ofNat 3 p.val) data).wf = true := by
  have hlegal : ∀ q : Pipe, BitVec.ofNat 3 q.val ≤ 5#3 := by decide
  exact decide_eq_true (hlegal p)

theorem encode_wTxPayloadAck (p : Pipe) (data : List Byte) :
    encode (.wTxPayloadAck (BitVec.ofNat 3 p.val) data) = BitVec.ofNat 8 (0xA8 + p.val) :: data := by
  have hbyte : ∀ q : Pipe, 0b10101#5 ++ BitVec.ofNat 3 q.val = BitVec.ofNat 8 (0xA8 + q.val) := by decide
  exact congrArg (· :: data) (hbyte p)

/-- For a pipe the command checks the bank and the lock, and then pushes (rule R242). -/
theorem pushWithAck_of_pipe {p : BitVec 3} {q : Pipe} (hp : pipeOperand p = some q) (b : Block)
    (data : List Byte) :
    pushWithAck b p data = checkBank b (checkLock b (txPush b data (some q))) := by
  rw [pushWithAck, hp]

theorem pushWithAck_of_reserved {p : BitVec 3} (hp : 6 ≤ p.toNat) (b : Block) (data : List Byte) :
    pushWithAck b p data = .error .rf02ReservedCommand := by
  rw [pushWithAck, pipeOperand, dif_neg (by omega)]

/-- A legal pipe field names a pipe. -/
theorem pipeOperand_of_le {p : BitVec 3} (hp : p ≤ 5#3) : ∃ q, pipeOperand p = some q :=
  ⟨_, dif_pos (Nat.lt_succ_of_le hp)⟩

/-- The six payload and flush commands check the bank first (rule R254). -/
theorem update_eq_checkBank {i : Instr} (hwf : i.wf = true)
    (hi : i.command ∈ [.rRxPlWid, .rRxPayload, .wTxPayload, .flushTx, .flushRx]
      ∨ ∃ p, i.command = .wTxPayloadAck p) (b : Block) : ∃ k, update i b = checkBank b k := by
  cases i with
  | rRxPlWid data | rRxPayload data | wTxPayload data | flushTx data | flushRx data => exact ⟨_, rfl⟩
  | wTxPayloadAck p data =>
    obtain ⟨q, hq⟩ := pipeOperand_of_le (of_decide_eq_true hwf)
    exact ⟨_, pushWithAck_of_pipe hq b data⟩
  | rRegister a data | wRegister a data | activateBank | activateFeature =>
    simp [Instr.command] at hi

/-- Settles O53: each of the six checks the bank before anything else. -/
theorem payloadCommandsAreRefusedInBank1 : Obligations.PayloadCommandsAreRefusedInBank1 := by
  intro s i hwf hb hi
  obtain ⟨k, hcheck⟩ := update_eq_checkBank hwf hi s.blk
  exact exec_of_bank1 hcheck hb

/-- Settles O54: two commands check the lock after the bank, and a DYNPD write before its data. -/
theorem lockGatedCommandsAreRefused : Obligations.LockGatedCommandsAreRefused := by
  intro s p a data hb hl
  refine ⟨exec_of_locked rfl hb hl,
    exec_of_locked (pushWithAck_of_pipe (pipeOperand_ofNat p) s.blk data) hb hl, fun ha => ?_⟩
  obtain ⟨hwrite, -⟩ := dynpdWriteFollowsTheLock
  exact (hwrite s a data hb ha).1 hl

/-! Pushing a payload (rules R240 to R242) -/

section

variable {b : Block} {data : List Byte}

theorem txPush_of_badLength (hlen : data.length = 0 ∨ 32 < data.length) (ack : Option Pipe) :
    txPush b data ack = .error .rf10PayloadLength := if_pos hlen

theorem txPush_of_full (hpos : 1 ≤ data.length) (hlen : data.length ≤ 32)
    (hfull : b.txf.length = b.cfg.txDepth) (ack : Option Pipe) :
    txPush b data ack = .error .rf09TxFifoFull := by
  rw [txPush, if_neg (by omega), if_pos hfull]

theorem txPush_of_room (hpos : 1 ≤ data.length) (hlen : data.length ≤ 32)
    (hroom : b.txf.length ≠ b.cfg.txDepth) (ack : Option Pipe) :
    txPush b data ack = .ok { b with txf := b.txf ++ [{ data := data, ack := ack }] } := by
  rw [txPush, if_neg (by omega), if_neg hroom]

end

/-- Settles O47: in bank 0 the command is TxPush. -/
theorem wTxPayloadPushesTheEntry : Obligations.WTxPayloadPushesTheEntry := by
  intro s data
  have hpush (hb : s.blk.bank = .bank0) :
      exec (.wTxPayload data) s = s.conclude (.wTxPayload data) (txPush s.blk data none) :=
    exec_of_bank0 rfl hb
  refine ⟨rfl, shiftsOutDraws_encode (i := .wTxPayload data) rfl nofun nofun nofun s,
    fun hb => exec_of_bank1 rfl hb, fun hb hlen => ?_,
    fun hb hpos hlen hfull => ?_, fun hb hpos hlen hroom => ?_⟩
  · rw [hpush hb, txPush_of_badLength hlen]
    rfl
  · rw [hpush hb, txPush_of_full hpos hlen hfull]
    rfl
  · rw [hpush hb, txPush_of_room hpos hlen hroom]
    rfl

/-- Settles O48: for a pipe, in bank 0 with the lock open, the command is TxPush. -/
theorem wTxPayloadAckPushesTheEntry : Obligations.WTxPayloadAckPushesTheEntry := by
  refine ⟨fun s p data bytes hbytes => ?_, fun s p data hp => ?_⟩
  · have hencode := (encode_wTxPayloadAck p data).trans hbytes.symm
    have hcheck := pushWithAck_of_pipe (pipeOperand_ofNat p) s.blk data
    have hwf := wf_wTxPayloadAck p data
    have hpush (hb : s.blk.bank = .bank0) (hl : s.blk.featureLocked = false) :
        exec (.wTxPayloadAck (BitVec.ofNat 3 p.val) data) s
          = s.conclude (.wTxPayloadAck (BitVec.ofNat 3 p.val) data) (txPush s.blk data (some p)) :=
      exec_of_unlocked hcheck hb hl
    rw [← hencode]
    refine ⟨rfl, shiftsOutDraws_encode hwf nofun nofun nofun s,
      fun hb => exec_of_bank1 hcheck hb, fun hb hl => exec_of_locked hcheck hb hl,
      fun hb hl hlen => ?_, fun hb hl hpos hlen hfull => ?_, fun hb hl hpos hlen hroom => ?_⟩
    · rw [hpush hb hl, txPush_of_badLength hlen, conclude_error]
    · rw [hpush hb hl, txPush_of_full hpos hlen hfull, conclude_error]
    · rw [hpush hb hl, txPush_of_room hpos hlen hroom, conclude_ok]
  · rw [exec_eq_conclude, update, pushWithAck_of_reserved hp, conclude_error]

/-! Emptying a FIFO (rules R250 and R252) -/

/-- Settles O51: in bank 0 the update empties the TX FIFO. -/
theorem flushTxEmptiesTheTxFifo : Obligations.FlushTxEmptiesTheTxFifo := by
  intro s data
  refine ⟨rfl, ?_, fun hb => exec_of_bank0 (k := .ok { s.blk with txf := [] }) rfl hb,
    fun hb => exec_of_bank1 rfl hb⟩
  exact shiftsOutDraws_encode (i := .flushTx data) rfl nofun nofun nofun s

/-- Settles O52: in bank 0 the update empties the RX FIFO. -/
theorem flushRxEmptiesTheRxFifo : Obligations.FlushRxEmptiesTheRxFifo := by
  intro s data
  refine ⟨rfl, ?_, fun hb => exec_of_bank0 (k := .ok { s.blk with rxf := [] }) rfl hb,
    fun hb => exec_of_bank1 rfl hb⟩
  exact shiftsOutDraws_encode (i := .flushRx data) rfl nofun nofun nofun s

/-! Reading the head of the RX FIFO (rules R244 to R247) -/

/-- The byte out with data byte `j` of a ready block's transaction is the command's (rule R135). -/
theorem getElem?_outBytes_encode {snap : Block} {i : Instr} {j : Nat} (hwf : i.wf = true)
    (hready : snap.ready = true) (hj : j < i.dataBytes.length) :
    (outBytes snap (encode i))[j + 1]? = some (outCommand snap i.command (j + 1)) := by
  have hlt : j + 1 < (encode i).length := Nat.succ_lt_succ hj
  rw [outBytes, List.getElem?_map, List.getElem?_range hlt, Option.map_some, encode,
    outByte_cons_of_ready hready, if_neg (Nat.succ_ne_zero j), decodeByte_commandByte hwf]

section

variable {b : Block}

theorem rxHead_of_nil (h : b.rxf = []) : b.rxHead = none := by rw [Block.rxHead, h]; rfl

theorem rxHead_of_cons {e : RxEntry} {rest : List RxEntry} (h : b.rxf = e :: rest) :
    b.rxHead = some e.data := by rw [Block.rxHead, h]; rfl

theorem outRRxPlWid_of_nil (h : b.rxf = []) (k : Nat) : outRRxPlWid b k = b.misoDraw k := by
  rw [outRRxPlWid, rxHead_of_nil h]

theorem outRRxPlWid_of_cons {e : RxEntry} {rest : List RxEntry} (h : b.rxf = e :: rest) (j : Nat) :
    outRRxPlWid b (j + 1) = if j = 0 ∧ b.bank = .bank0 ∧ b.featureLocked = false
      then BitVec.ofNat 8 e.data.length else b.misoDraw (j + 1) := by
  simp [outRRxPlWid, rxHead_of_cons h]

theorem outRRxPayload_of_nil (h : b.rxf = []) (k : Nat) : outRRxPayload b k = b.misoDraw k := by
  rw [outRRxPayload, rxHead_of_nil h, ite_self]

theorem outRRxPayload_of_cons {e : RxEntry} {rest : List RxEntry} (h : b.rxf = e :: rest) (j : Nat) :
    outRRxPayload b (j + 1) = if b.bank = .bank0
      then (e.data[j]?).getD (b.misoDraw (j + 1)) else b.misoDraw (j + 1) := by
  rw [outRRxPayload, rxHead_of_cons h]
  cases b.bank <;> rfl

end

/-- Settles O49: the update keeps the block, and data byte 1 of the bytes out is the head's count. -/
theorem rRxPlWidReturnsTheByteCount : Obligations.RRxPlWidReturnsTheByteCount := by
  intro s data
  refine ⟨rfl, fun hb hl => exec_of_unlocked (k := .ok s.blk) rfl hb hl,
    fun hb => exec_of_bank1 rfl hb, fun hb hl => exec_of_locked rfl hb hl, fun j hready hj => ?_⟩
  refine (getElem?_outBytes_encode (i := .rRxPlWid data) rfl hready hj).trans (congrArg some ?_)
  cases hf : s.seen.rxf with
  | nil => exact outRRxPlWid_of_nil hf (j + 1)
  | cons e rest => exact outRRxPlWid_of_cons hf j

/-! What a read of payload bytes consumes (rules R246 and R247) -/

theorem rxConsume_of_nothing {rxf : List RxEntry} {k : Nat} (h : rxf = [] ∨ k = 0) (pop : RxPop) :
    rxConsume pop k rxf = rxf := by
  obtain rfl | rfl := h
  · rfl
  · cases rxf <;> rfl

theorem rxConsume_of_short {e : RxEntry} {k : Nat} (hpos : k ≠ 0) (hk : k < e.data.length)
    (rest : List RxEntry) :
    rxConsume .perByte k (e :: rest) = { e with data := e.data.drop k } :: rest := by
  simp [rxConsume, hpos, Nat.not_le.mpr hk]

theorem rxConsume_of_whole {e : RxEntry} {k : Nat} {pop : RxPop} (hpos : k ≠ 0)
    (h : pop = .wholePayloadAtEnd ∨ e.data.length ≤ k) (rest : List RxEntry) :
    rxConsume pop k (e :: rest) = rest := by
  cases pop with
  | wholePayloadAtEnd => exact if_neg hpos
  | perByte => simp [rxConsume, hpos, h.resolve_left nofun]

/-- Settles O50: in bank 0 the update consumes the head entry, and the bytes out are its bytes. -/
theorem rRxPayloadConsumesTheHead : Obligations.RRxPayloadConsumesTheHead := by
  intro s data
  have hread (hb : s.blk.bank = .bank0) : exec (.rRxPayload data) s = s.conclude (.rRxPayload data)
      (.ok { s.blk with rxf := rxConsume s.blk.cfg.rxPop data.length s.blk.rxf }) :=
    exec_of_bank0 rfl hb
  refine ⟨rfl, fun hb => exec_of_bank1 rfl hb,
    fun hb hnothing => ?_, fun e rest hb hf hdata => ?_, fun j hready hj => ?_⟩
  · rw [hread hb, rxConsume_of_nothing (hnothing.imp_right List.length_eq_zero_iff.mpr)]
    rfl
  · have hpos : data.length ≠ 0 := mt List.length_eq_zero_iff.mp hdata
    refine ⟨fun hpop hshort => ?_, fun hwhole => ?_⟩
    · rw [hread hb, hf, hpop, rxConsume_of_short hpos hshort]
      rfl
    · rw [hread hb, hf, rxConsume_of_whole hpos hwhole]
      rfl
  · refine (getElem?_outBytes_encode (i := .rRxPayload data) rfl hready hj).trans (congrArg some ?_)
    cases hf : s.seen.rxf with
    | nil => exact outRRxPayload_of_nil hf (j + 1)
    | cons e rest => exact outRRxPayload_of_cons hf j

end Sys2Proof.Machine

namespace Sys2Proof.Machine

/-! Refusals (rules R270 and R271) -/

/-- Settles O20: an update that is applied keeps the record, so a changed record is a refusal taken, and
taking one moves the mark, the record and the response alone. -/
theorem refusalChangesNothingElse : Obligations.RefusalChangesNothingElse := by
  intro i s u hexec hnew
  obtain ⟨b, hupdate, rfl⟩ | ⟨code, -, rfl⟩ := exec_cases hexec
  · exact absurd (update_keeps hupdate).refusals hnew
  · exact ⟨code, rfl⟩

end Sys2Proof.Machine

namespace Sys2Proof.Machine

/-! The Boot agent's step (rule R291) -/

theorem bootDone_of_may {s : State} (h : s.blk.ready = false ∧ s.txn = none) :
    bootDone s = { s with blk := { s.blk with ready := true } } := if_pos h

theorem bootDone_of_not {s : State} (h : ¬(s.blk.ready = false ∧ s.txn = none)) : bootDone s = s :=
  if_neg h

/-- Settles O59: the guard is that of the model, and taking the input off the agenda leaves it as it is. -/
theorem bootDoneMakesTheBlockReady : Obligations.BootDoneMakesTheBlockReady := by
  intro s rest ha
  refine ⟨fun hmay => ?_, fun hnot => ?_⟩
  · have hboot := bootDone_of_may (s := { s with agenda := rest }) hmay
    rw [step_of_agenda ha, handle, hboot]
  · have hboot := bootDone_of_not (s := { s with agenda := rest }) hnot
    rw [step_of_agenda ha, handle, hboot]

end Sys2Proof.Machine
